-- ==== Sys2Proof/Word.lean ====
section
/-! DEFINITION. The bytes and colors of the block, as plain data (spec/00_scope.md R13, R16). -/

namespace Sys2Proof

/-- A byte is 8 bits, unsigned (R13). -/
abbrev Byte := BitVec 8

/-- A color is three separate 8-bit channels (R8, R16, 20_memory.md R88). -/
structure Color where
  /-- red channel -/
  r : BitVec 8
  /-- green channel -/
  g : BitVec 8
  /-- blue channel -/
  b : BitVec 8
deriving DecidableEq, Repr, Inhabited

/-- `OFF` is (0, 0, 0) (R16). -/
def Color.off : Color := ⟨0, 0, 0⟩

end Sys2Proof
end

