-- ==== Sys2Proof/Config.lean ====
section
/-! DEFINITION. The configuration of the block (spec/00_scope.md R8, R11, R12), its well-formedness check, and
the free values: constants without a body, of which no proof can see a value.

A configuration is plain data held in the machine's state, so a statement about every state is a statement about every
configuration ("the model takes each as an argument", R11). `Config` carries its check: an ill-formed configuration
"has no meaning" (R12), so no state can hold one. -/

namespace Sys2Proof

/-- LED indices 0..87 (20_memory.md R82). -/
abbrev LedIndex := Fin 88

/-- The 88 colors of the pixel buffer or of one commit (10_state.md R33, R41). -/
abbrev LedFrame := Vector Color 88

/-- `DRONE_STEPS` = 100 (R8). -/
def droneSteps : Nat := 100

/-- The drone brightness table `T[0..99]` (10_state.md R42). -/
abbrev DroneTable := Vector Color 100

/-- The six non-top zones; their listing order is the draw order (R18, 41_pattern_engine.md R323). -/
inductive SideZone where
  | front | back | leftLeft | leftRight | rightLeft | rightRight
deriving DecidableEq, Repr

/-- The seven zones (R18). -/
inductive Zone where
  /-- one of the six non-top zones -/
  | side (z : SideZone)
  /-- the top zone -/
  | top
deriving DecidableEq, Repr

/-- Selectable subgroups of a non-top zone: 4, 4, 3, 3, 3, 3 (20_memory.md R96; 90_conflicts.md C1). -/
def SideZone.count : SideZone → Nat
  | .front => 4
  | .back => 4
  | .leftLeft => 3
  | .leftRight => 3
  | .rightLeft => 3
  | .rightRight => 3

/-- An ordered quadruple of LED indices; position 0 is first (20_memory.md R85, R98). -/
structure Quad where
  /-- position 0 -/
  p0 : LedIndex
  /-- position 1 -/
  p1 : LedIndex
  /-- position 2 -/
  p2 : LedIndex
  /-- position 3 -/
  p3 : LedIndex
deriving DecidableEq, Repr

/-- The quadruple's indices in order. -/
def Quad.toList (q : Quad) : List LedIndex := [q.p0, q.p1, q.p2, q.p3]

/-- The quadruple [b, b+1, b+2, b+3] (20_memory.md R95, R98). -/
def Quad.ofBase (b : Fin 85) : Quad :=
  ⟨⟨b.val, by omega⟩, ⟨b.val + 1, by omega⟩, ⟨b.val + 2, by omega⟩, ⟨b.val + 3, by omega⟩⟩

/-- The Topology Map of the non-top zones: the counts are fixed (20_memory.md R96), the quadruples are the
configuration's (R95). -/
structure Topology where
  /-- FRONT (0): 4 subgroups -/
  front : Vector Quad 4
  /-- BACK (1): 4 subgroups -/
  back : Vector Quad 4
  /-- LEFT_LEFT (2): 3 subgroups -/
  leftLeft : Vector Quad 3
  /-- LEFT_RIGHT (3): 3 subgroups -/
  leftRight : Vector Quad 3
  /-- RIGHT_LEFT (4): 3 subgroups -/
  rightLeft : Vector Quad 3
  /-- RIGHT_RIGHT (5): 3 subgroups -/
  rightRight : Vector Quad 3
deriving DecidableEq, Repr

/-- The 20 quadruples of the non-top zones, in zone order. -/
def Topology.quads (t : Topology) : List Quad :=
  t.front.toList ++ t.back.toList ++ t.leftLeft.toList ++ t.leftRight.toList ++ t.rightLeft.toList
    ++ t.rightRight.toList

/-- The LED indices of all non-top subgroups, as numbers. -/
def Topology.sideIndices (t : Topology) : List Nat :=
  t.quads.flatMap fun q => q.toList.map Fin.val

/-- The parameters of 00_scope.md R11 (and `NOTE_COLOR[0]` of R8) before they are checked. -/
structure RawConfig where
  /-- `ASCEND_STEP_US`: hold per ascending drone step, microseconds -/
  ascendStepUs : Nat
  /-- `DESCEND_STEP_US`: hold per descending drone step, microseconds -/
  descendStepUs : Nat
  /-- `DRONE_COLOR`: seed color of the drone table -/
  droneColor : Color
  /-- `NOTE_COLOR[0..11]` (20_memory.md R99) -/
  noteColor : Vector Color 12
  /-- `TOPOLOGY` (20_memory.md R95) -/
  topology : Topology
  /-- first entry of `TOP_BASE`: the base that draw value 0 selects (41_pattern_engine.md R324) -/
  topBase0 : Fin 85
  /-- second entry of `TOP_BASE` -/
  topBase1 : Fin 85
  /-- `RX_DEPTH`: receive FIFO capacity in bytes, `none` for unbounded -/
  rxDepth : Option Nat
  /-- `TABLE_CAPACITY`: largest N the generator can store -/
  tableCapacity : Nat
  /-- `ACCEPT_EMPTY_DURATION`: whether a NOTE frame with no duration digits is accepted with duration 0 -/
  acceptEmptyDuration : Bool
  /-- `alloc_ok`: whether the startup table allocation succeeds (a draw at reset, 10_state.md R35) -/
  allocOk : Bool
deriving DecidableEq, Repr

/-- R12: every `TOPOLOGY` entry is a list of 4 distinct LED indices. -/
def RawConfig.quadsDistinct (c : RawConfig) : Bool :=
  c.topology.quads.all fun q => decide q.toList.Nodup

/-- R12, 20_memory.md R97: the non-top subgroups cover exactly {0..79}, no index in two subgroups. -/
def RawConfig.sidePartition (c : RawConfig) : Bool :=
  c.topology.sideIndices.all (fun i => decide (i < 80))
    && (List.range 80).all fun i => c.topology.sideIndices.count i == 1

/-- R12, 20_memory.md R97: the top base offsets cover exactly {80..87}. -/
def RawConfig.topCovers (c : RawConfig) : Bool :=
  let top := ((Quad.ofBase c.topBase0).toList ++ (Quad.ofBase c.topBase1).toList).map Fin.val
  top.all (fun i => decide (80 ≤ i)) && (List.range 8).all fun i => top.count (80 + i) == 1

/-- R12: `NOTE_COLOR` has entry 0 = (255, 0, 0); its 12 entries are the type's. -/
def RawConfig.noteZeroRed (c : RawConfig) : Bool := decide (c.noteColor[0] = ⟨255, 0, 0⟩)

/-- R12: `RX_DEPTH` >= 11, or unbounded (R11). -/
def RawConfig.rxDepthOk (c : RawConfig) : Bool :=
  match c.rxDepth with
  | none => true
  | some d => decide (11 ≤ d)

/-- The well-formedness of a configuration (R12). `DRONE_STEPS` = 100 is a constant of the model, and R12's condition on
`TABLE_CAPACITY` holds of every value because the model admits `alloc_ok` false (log 18). -/
def RawConfig.wf (c : RawConfig) : Bool :=
  c.quadsDistinct && c.sidePartition && c.topCovers && c.noteZeroRed && c.rxDepthOk

/-- A configuration that has a meaning: parameters that pass the check of R12. -/
structure Config extends RawConfig where
  /-- the check of R12 passes -/
  wellFormed : toRawConfig.wf = true
deriving DecidableEq, Repr

/-! ## Free values: no proof can evaluate these constants -/

/-- The state type `S` of the pseudo-random generator (R11). Every state a device could hold can be numbered, so the
natural numbers stand for it (log 6). -/
abbrev PrngState := Nat

/-- `RAND_BITS` less 2: the raw width is OPEN, at least 2 (R11; log 6). -/
opaque Config.extraRandBits : Nat

/-- `RAND_BITS`, the width of a raw draw, at least 2 (R11). -/
def Config.randBits : Nat := Config.extraRandBits + 2

/-- `PRNG`: the generator's `next : S -> (raw, S)`, OPEN (R11, 92_eei_decisions.md D19; log 6). -/
opaque Config.prngNext : PrngState → BitVec Config.randBits × PrngState

/-- `PRNG_SEED`, a draw at reset (R11; log 5). -/
opaque Config.prngSeed : PrngState

/-- `NOTE_COLOR[1..11]`, OPEN with no default (R11, D13; log 5). -/
opaque Config.openNoteColor : Nat → Color

/-- The byte that `frame[j]` holds after a decode step that read at most j bytes: unspecified (10_state.md R38, I4),
a free value of the counter and the offset (log 9). -/
opaque Config.unspecifiedByte : Nat → Nat → Byte

/-- What the physical LEDs show before the first commit: unknown (70_reset_and_hazards.md R612, I5; log 13). -/
opaque Config.ledsBeforeFirstCommit : LedFrame

/-! ## The defaults of 00_scope.md R11 -/

/-- The default `TOPOLOGY`: consecutive quadruples in zone order (20_memory.md R95). -/
def Topology.consecutive : Topology where
  front := #v[Quad.ofBase 0, Quad.ofBase 4, Quad.ofBase 8, Quad.ofBase 12]
  back := #v[Quad.ofBase 16, Quad.ofBase 20, Quad.ofBase 24, Quad.ofBase 28]
  leftLeft := #v[Quad.ofBase 32, Quad.ofBase 36, Quad.ofBase 40]
  leftRight := #v[Quad.ofBase 44, Quad.ofBase 48, Quad.ofBase 52]
  rightLeft := #v[Quad.ofBase 56, Quad.ofBase 60, Quad.ofBase 64]
  rightRight := #v[Quad.ofBase 68, Quad.ofBase 72, Quad.ofBase 76]

/-- The defaults of R11. DESIGN CHOICE (unsafe, log 5) where R11 gives none: `RX_DEPTH` unbounded and `alloc_ok` true
are the conventions of 95_test_vectors.md, `TABLE_CAPACITY` 100 is the least of a working device;
`NOTE_COLOR[1..11]` are free values. -/
def RawConfig.default : RawConfig where
  ascendStepUs := 33500
  descendStepUs := 14500
  droneColor := ⟨255, 0, 0⟩
  noteColor := #v[⟨255, 0, 0⟩, Config.openNoteColor 1, Config.openNoteColor 2, Config.openNoteColor 3,
    Config.openNoteColor 4, Config.openNoteColor 5, Config.openNoteColor 6, Config.openNoteColor 7,
    Config.openNoteColor 8, Config.openNoteColor 9, Config.openNoteColor 10, Config.openNoteColor 11]
  topology := Topology.consecutive
  topBase0 := 80
  topBase1 := 84
  rxDepth := none
  tableCapacity := 100
  acceptEmptyDuration := true
  allocOk := true

/-- The default configuration, with its check. -/
def Config.default : Config := ⟨RawConfig.default, by decide⟩

end Sys2Proof
end

