-- ==== Sys2Proof/Syntax.lean ====
section
/-! DEFINITION. The instructions: one constructor per row of spec/opcode_table.json (00_scope.md R2), and the two
forms an encoded instruction can have, the frame of 11 bytes (30_encoding.md R130) and the generator's control word
(R143). -/

namespace Sys2Proof

/-- The `DUR` field, offsets 3..9 of a frame (30_encoding.md R130, R134). -/
abbrev DurField := Vector Byte 7

/-- The seven instructions: three command frames and four curve operations. -/
inductive Instr where
  /-- DRONE_OFF (40_frame_decoder.md R210) -/
  | droneOff
  /-- DRONE_ON (R211) -/
  | droneOn
  /-- NOTE (R214): the raw note-index byte `frame[2]` and the duration field `frame[3..9]` -/
  | note (idx : Byte) (dur : DurField)
  /-- GEN_LINEAR (42_curve_generator.md R404): seed color `A`, table length `N` -/
  | genLinear (a : Color) (n : Nat)
  /-- GEN_QUADRATIC (R405): seed color `A`, table length `N` -/
  | genQuadratic (a : Color) (n : Nat)
  /-- GEN_MINMAXQ (R406): min color `A`, max color `B`, table length `N` -/
  | genMinMaxQ (a b : Color) (n : Nat)
  /-- GEN_EXPONENTIAL (R407): seed color `A`, table length `N` -/
  | genExponential (a : Color) (n : Nat)
deriving DecidableEq, Repr

/-- The generator's control word (30_encoding.md R143): `CURVE` is 2 bits, `A` and `B` are colors, `N` is a number
(not bounded by the encoding: values over `TABLE_CAPACITY` raise AllocationFailure). -/
structure GenWord where
  /-- `CURVE` -/
  curve : BitVec 2
  /-- `A`: seed color, or min color of minMaxQuadratic -/
  a : Color
  /-- `B`: max color of minMaxQuadratic, ignored otherwise -/
  b : Color
  /-- `N`: table length -/
  n : Nat
deriving DecidableEq, Repr

/-- An encoded instruction: the bytes of a frame in wire order, or a generator control word. -/
inductive Code where
  /-- bytes read from the link, byte 0 first (R86) -/
  | frame (bytes : List Byte)
  /-- a control word of the generator (R143) -/
  | control (w : GenWord)
deriving DecidableEq, Repr

/-- The frames that name no instruction: the four FrameErrors of 30_encoding.md R140 items 1 to 4, in the order of
60_exceptions.md R504. -/
inductive FrameError where
  /-- fewer than 11 bytes (40_frame_decoder.md R203) -/
  | short
  /-- `frame[0]` is not the start marker (R204) -/
  | badStart
  /-- `frame[10]` is not the end marker (R205) -/
  | badEnd
  /-- unknown command byte (R206) -/
  | badCmd
deriving DecidableEq, Repr

end Sys2Proof
end

