-- ==== Sys2Proof/WellFormed.lean ====
section
/-! DEFINITION. Which instructions are well formed: the constraints of the rows of spec/opcode_table.json. An
ill-formed one still decodes; its meaning takes the error the spec names (NoteIndexError, DurationParseError,
AllocationFailure). The configuration's own check is `RawConfig.wf` (Config.lean). -/

namespace Sys2Proof

/-- The note index is 0..11 (30_encoding.md R133, 40_frame_decoder.md R212). -/
def noteIndexInRange (idx : Byte) : Bool := decide (idx.toNat ≤ 11)

/-- The numeral of a duration field is well formed (30_encoding.md R136, R138): the first byte after the leading run of
ASCII digits is 0x00 or 0x26, or the run fills the field and the frame's own end marker ends it; and a field with no
digit needs `ACCEPT_EMPTY_DURATION`. -/
def durationWellFormed (acceptEmpty : Bool) (dur : DurField) : Bool :=
  let afterDigits := dur.toList.dropWhile fun b => decide (0x30 ≤ b.toNat ∧ b.toNat ≤ 0x39)
  (match afterDigits with
    | [] => true
    | t :: _ => decide (t = 0x00 ∨ t = 0x26))
  && (acceptEmpty || decide (afterDigits.length < 7))

/-- `N` is 0..`TABLE_CAPACITY` (30_encoding.md R143, 42_curve_generator.md R410). -/
def tableLengthInRange (c : Config) (n : Nat) : Bool := decide (n ≤ c.tableCapacity)

/-- The well-formed instructions of a block with configuration `c`. -/
def Instr.wf (c : Config) : Instr → Bool
  | .droneOff => true
  | .droneOn => true
  | .note idx dur => noteIndexInRange idx && durationWellFormed c.acceptEmptyDuration dur
  | .genLinear _ n => tableLengthInRange c n
  | .genQuadratic _ n => tableLengthInRange c n
  | .genMinMaxQ _ _ n => tableLengthInRange c n
  | .genExponential _ n => tableLengthInRange c n

end Sys2Proof
end

