-- ==== Sys2Proof/Decode.lean ====
section
/-! DEFINITION. Decoding, total on any bytes and on any control word, rejecting by name; then the encoder, written from
the same tables (spec/30_encoding.md R130 to R144); then the numbering of spec/opcode_table.json. -/

namespace Sys2Proof

/-- `START_MARKER`, `%` (00_scope.md R8). -/
def startMarker : Byte := 0x25

/-- `END_MARKER`, `&` (R8). -/
def endMarker : Byte := 0x26

/-- `CMD` of DRONE_OFF, ASCII `'0'` (30_encoding.md R139). -/
def cmdDroneOff : Byte := 0x30

/-- `CMD` of DRONE_ON, ASCII `'1'` (R139). -/
def cmdDroneOn : Byte := 0x31

/-- `CMD` of NOTE, ASCII `'2'` (R139). -/
def cmdNote : Byte := 0x32

/-- The byte at an offset of the bytes a decode step read. -/
def byteAt (bytes : List Byte) (j : Nat) : Byte := bytes.getD j 0

/-- The `DUR` field, offsets 3..9 (R130). -/
def durField (bytes : List Byte) : DurField :=
  #v[byteAt bytes 3, byteAt bytes 4, byteAt bytes 5, byteAt bytes 6, byteAt bytes 7, byteAt bytes 8, byteAt bytes 9]

/-- What a decode step makes of the bytes it read: the checks of 40_frame_decoder.md R203 to R206 in the order of R504,
then the dispatch of 30_encoding.md R139. Bytes 2..9 of DRONE_OFF and DRONE_ON are not examined (R141), nor is any byte
after the eleventh. -/
def decodeFrame (bytes : List Byte) : Except FrameError Instr :=
  if bytes.length < 11 then .error .short
  else if byteAt bytes 0 ≠ startMarker then .error .badStart
  else if byteAt bytes 10 ≠ endMarker then .error .badEnd
  else if byteAt bytes 1 = cmdDroneOff then .ok .droneOff
  else if byteAt bytes 1 = cmdDroneOn then .ok .droneOn
  else if byteAt bytes 1 = cmdNote then .ok (.note (byteAt bytes 2) (durField bytes))
  else .error .badCmd

/-- What a generator control word stands for: all four `CURVE` values are defined (R143, R144). -/
def decodeControl (w : GenWord) : Instr :=
  if w.curve = 0b00 then .genLinear w.a w.n
  else if w.curve = 0b01 then .genQuadratic w.a w.n
  else if w.curve = 0b10 then .genMinMaxQ w.a w.b w.n
  else .genExponential w.a w.n

/-- Decoding of either form. -/
def decode : Code → Except FrameError Instr
  | .frame bytes => decodeFrame bytes
  | .control w => .ok (decodeControl w)

/-! ## The encoder -/

/-- A frame with the given bytes at offsets 1..9 (R130). -/
def frameOf (cmd note : Byte) (dur : List Byte) : List Byte := startMarker :: cmd :: note :: dur ++ [endMarker]

/-- The encoding of an instruction: the bytes of R145 (padding 0x00, log 17) or the control word of R143. -/
def encode : Instr → Code
  | .droneOff => .frame (frameOf cmdDroneOff 0x00 (List.replicate 7 0x00))
  | .droneOn => .frame (frameOf cmdDroneOn 0x00 (List.replicate 7 0x00))
  | .note idx dur => .frame (frameOf cmdNote idx dur.toList)
  | .genLinear a n => .control ⟨0b00, a, Color.off, n⟩
  | .genQuadratic a n => .control ⟨0b01, a, Color.off, n⟩
  | .genMinMaxQ a b n => .control ⟨0b10, a, b, n⟩
  | .genExponential a n => .control ⟨0b11, a, Color.off, n⟩

/-! ## The numbering of spec/opcode_table.json

A frame is 88 bits with `frame[0]` in bits 87:80 and `frame[10]` in bits 7:0. A control word has `CURVE` in bits 1:0; the
table gives the places of no other field, and the model continues in R143's order: `A` in bits 25:2, `B` in bits 49:26
and `N` from bit 50 on (log 12). -/

/-- The packed form `0xRRGGBB` of a color (00_scope.md R16). -/
def Color.packed (c : Color) : Nat := c.r.toNat * 65536 + c.g.toNat * 256 + c.b.toNat

/-- The color of a packed value: red in bits 23:16, green in 15:8, blue in 7:0 (R16). -/
def Color.ofPacked (v : Nat) : Color :=
  ⟨BitVec.ofNat 8 (v / 65536), BitVec.ofNat 8 (v / 256), BitVec.ofNat 8 v⟩

/-- The 11 bytes of an 88-bit frame word, `frame[0]` in bits 87:80. -/
def frameOfWord (w : Nat) : List Byte := (List.range 11).map fun j => BitVec.ofNat 8 (w / 256 ^ (10 - j))

/-- The frame word of the bytes, the first byte most significant. -/
def wordOfFrame (bytes : List Byte) : Nat := bytes.foldl (fun acc b => acc * 256 + b.toNat) 0

/-- The control word whose bits are `w`. -/
def genWordOfWord (w : Nat) : GenWord :=
  ⟨BitVec.ofNat 2 w, Color.ofPacked (w / 2 ^ 2), Color.ofPacked (w / 2 ^ 26), w / 2 ^ 50⟩

/-- The bits of a control word. -/
def wordOfGenWord (g : GenWord) : Nat :=
  g.curve.toNat + 2 ^ 2 * g.a.packed + 2 ^ 26 * g.b.packed + 2 ^ 50 * g.n

/-- Bits of a frame row of the table. -/
def frameBits : Nat := 88

/-- The instruction the decoder reads from a word numbered as the table numbers it: 88 bits are a frame, any other
length is a control word (log 12). -/
def decodeTableWord (nbits w : Nat) : Option Instr :=
  if nbits = frameBits then
    match decodeFrame (frameOfWord w) with
    | .ok i => some i
    | .error _ => none
  else some (decodeControl (genWordOfWord w))

/-- The encoding of an instruction as the table numbers it: the row's bits in whole bytes, and the word. -/
def encodeTableWord (i : Instr) : Nat × Nat :=
  match encode i with
  | .frame bytes => (frameBits, wordOfFrame bytes)
  | .control g => (8, wordOfGenWord g)

end Sys2Proof
end

