-- ==== Sys2Proof/Machine/State.lean ====
section
/-! DEFINITION. The state of the machine, its reset, and the reasons a step can stop (spec/10_state.md R37, R50,
spec/70_reset_and_hazards.md R600). -/

namespace Sys2Proof.Machine

open Sys2Proof

/-- The sequencer's phase, the block's program counter (10_state.md R50); the codes are `Phase.code` (Flags.lean). -/
inductive Phase where
  /-- startup (70_reset_and_hazards.md R601) -/
  | init
  /-- decode when a byte is pending (40_frame_decoder.md R200) -/
  | idle
  /-- the DRONE_OFF handler (41_pattern_engine.md R300) -/
  | allOff
  /-- start of the DRONE_ON handler (R340) -/
  | droneEntry
  /-- render one drone step (R341) -/
  | droneShow
  /-- hold, poll, advance (R342) -/
  | droneWait
  /-- compose and commit a flash (R320) -/
  | flashShow
  /-- hold, clear, commit (R326) -/
  | flashWait
  /-- no step, ever (60_exceptions.md R510) -/
  | halted
deriving DecidableEq, Repr

/-- `dir`: ASC = 0, DESC = 1 (10_state.md R37). -/
inductive Dir where
  | asc | desc
deriving DecidableEq, Repr

/-- The kind of the command latch (10_state.md R37). -/
inductive CmdKind where
  | none | droneOff | droneOn | note
deriving DecidableEq, Repr

/-- `cmd`, the command latch (10_state.md R37, R39). -/
structure Command where
  /-- kind: NONE, DRONE_OFF, DRONE_ON or NOTE -/
  kind : CmdKind
  /-- `note`, 0..11 when the kind is NOTE -/
  note : BitVec 4
  /-- `dur`, microseconds -/
  dur : BitVec 32
deriving DecidableEq, Repr

/-- `err_code`, the cause of the last rejection (60_exceptions.md R501); the 3-bit codes are `ErrCode.code`. -/
inductive ErrCode where
  | none | frameShort | frameStart | frameEnd | frameCmd | noteIndex | durationParse | allocFail
deriving DecidableEq, Repr

/-- An observable event (00_scope.md R17). -/
inductive Event where
  /-- `TX(b)`: a byte sent to the host -/
  | tx (b : Byte)
  /-- `COMMIT(p)`: a snapshot of 88 colors shown on the LEDs -/
  | commit (p : LedFrame)
  /-- `HOLD(us)`: a wait on the abstract clock -/
  | hold (us : Nat)
deriving DecidableEq, Repr

/-- Which agent moves next (10_state.md R30, R31; log 1). -/
inductive Turn where
  /-- the block takes its step -/
  | block
  /-- the host sends a byte: `HostSend(b)` -/
  | host (b : Byte)
deriving DecidableEq, Repr

/-- The state: every piece of the register table of 10_state.md R37, the configuration of 00_scope.md R11, the
observable trace of R17, the generator's control word and result, and two fields of the model's own. -/
structure State where
  /-- `rx`, the receive FIFO, oldest byte first (R31) -/
  rx : List Byte
  /-- `frame[0..10]`, the frame buffer (R38) -/
  frame : Vector Byte 11
  /-- `fcount`, 0..11 -/
  fcount : Fin 12
  /-- `cmd`, the command latch (R39) -/
  cmd : Command
  /-- `err_code` (60_exceptions.md R501) -/
  errCode : ErrCode
  /-- `phase` (R50) -/
  phase : Phase
  /-- `dir` (R40) -/
  dir : Dir
  /-- `k`, the drone step index 0..99 (R40) -/
  k : Fin 100
  /-- `stop`, DroneCycle's stop flag (R40, R53) -/
  stop : Bool
  /-- `fl_color` -/
  flColor : Color
  /-- `fl_dur` -/
  flDur : BitVec 32
  /-- `prng`, the state of the one shared pseudo-random stream (R43) -/
  prng : PrngState
  /-- `t_us`, the abstract clock in microseconds (R44) -/
  tUs : Nat
  /-- `pix[0..87]`, the pixel buffer (R41) -/
  pix : LedFrame
  /-- `T[0..99]`, the drone brightness table (R42) -/
  table : DroneTable
  /-- `NOTE_COLOR`, `TOPOLOGY` and the parameters of 00_scope.md R11, constant -/
  cfg : Config
  /-- the generator's control word: the operation the `INIT` step issues (30_encoding.md R143, R144; log 11) -/
  genWord : GenWord
  /-- the generator's result `G` (42_curve_generator.md R400; log 11) -/
  genOut : List Color
  /-- the events so far, oldest first (00_scope.md R17; log 13) -/
  trace : List Event
  /-- the MODEL's own: whose turn it is, first entry first; empty means the block's (log 1) -/
  turns : List Turn
  /-- the MODEL's own: the counter that free values are applied to (log 9) -/
  freeCount : Nat
deriving DecidableEq, Repr

/-- The reasons a step stops with a fault. -/
inductive Fault where
  /-- Raised by a block step in phase `HALTED`, which has no step (60_exceptions.md R510); the spec asks for a fault
  outcome (R511). Safe: the hardware does nothing there (log 14). -/
  | halted
deriving DecidableEq, Repr

/-- The reasons for a refusal. -/
inductive Refusal where
  /-- Raised by an arm of `exec` for an instruction without a meaning; no arm does. Safe. -/
  | notModelled (mnemonic : String)
  /-- Raised by `State.boot` for parameters that fail the check of 00_scope.md R12: "a model refuses an ill-formed
  configuration". Safe. -/
  | illFormedConfiguration
deriving DecidableEq, Repr

/-- The one generator operation the startup issues: quadratic, `A` = `DRONE_COLOR`, `N` = 100 (30_encoding.md R144).
`B` is ignored by quadratic; its `OFF` is a DESIGN CHOICE (log 11). -/
def startupWord (c : Config) : GenWord := ⟨0b01, c.droneColor, Color.off, droneSteps⟩

/-- The machine after reset with the draws of 10_state.md R35: any well-formed configuration and any seed. The values
are those of R37 and 70_reset_and_hazards.md R600; `frame` (log 8), `table` before the `INIT` step (log 7), `genOut`
(log 11), `turns` (log 1) and `freeCount` (log 9) are DESIGN CHOICES. -/
def State.resetWith (cfg : Config) (seed : PrngState) : State where
  rx := []
  frame := Vector.replicate 11 0
  fcount := 0
  cmd := ⟨.none, 0, 0⟩
  errCode := .none
  phase := .init
  dir := .asc
  k := 0
  stop := false
  flColor := Color.off
  flDur := 0
  prng := seed
  tUs := 0
  pix := Vector.replicate 88 Color.off
  table := Vector.replicate 100 Color.off
  cfg := cfg
  genWord := startupWord cfg
  genOut := []
  trace := []
  turns := []
  freeCount := 0

/-- The machine right after reset: the default configuration and the open seed (log 5). -/
def State.reset : State := State.resetWith Config.default Config.prngSeed

/-- Reset with unchecked parameters: an ill-formed configuration is refused (00_scope.md R12, D37). -/
def State.boot (raw : RawConfig) (seed : PrngState) : Host.Outcome State Fault Refusal :=
  if h : raw.wf = true then .next (State.resetWith ⟨raw, h⟩ seed) else .refused .illFormedConfiguration

end Sys2Proof.Machine
end

