-- ==== Sys2Proof/Machine/Ops.lean ====
section
/-! DEFINITION. The primitives of spec/00_scope.md R15 over the state, the read of a decode step, and raising an error.
There is no byte-addressed memory (20_memory.md R80): the arrays `frame`, `pix` and `T` are fields of the state. -/

namespace Sys2Proof.Machine

open Sys2Proof

/-! ## The receive FIFO -/

/-- `RxCount()`: the number of bytes in the receive FIFO; no side effect (R15, 20_memory.md R94). -/
def rxCount (s : State) : Nat := s.rx.length

/-- `RxPop()`: removes and returns the oldest byte (R15). -/
def rxPop (s : State) : Option (Byte × State) :=
  match s.rx with
  | [] => none
  | b :: rest => some (b, { s with rx := rest })

/-- `RxFlush()`: removes every byte present (R15). -/
def rxFlush (s : State) : State := { s with rx := [] }

/-- Whether a FIFO of capacity `depth` holding `n` bytes has room for one more (10_state.md R31). -/
def fifoHasRoom (depth : Option Nat) (n : Nat) : Bool :=
  match depth with
  | none => true
  | some d => decide (n < d)

/-- `HostSend(b)`, the host's only action: appended to the tail if there is room, else lost (10_state.md R31). -/
def hostSend (b : Byte) (s : State) : State :=
  if fifoHasRoom s.cfg.rxDepth s.rx.length then { s with rx := s.rx ++ [b] } else s

/-- Up to `n` pops, the bytes in the order they came out. -/
def popBytes : Nat → State → List Byte × State
  | 0, s => ([], s)
  | n + 1, s =>
    match rxPop s with
    | none => ([], s)
    | some (b, s') => (b :: (popBytes n s').1, (popBytes n s').2)

/-- The entry `frame[j]` after a decode step that read `bytes`: the j-th byte, or an unspecified byte, a free value of
the counter and the offset (10_state.md R38; log 9). -/
def frameEntry (bytes : List Byte) (freeCount j : Nat) : Byte :=
  match bytes[j]? with
  | some b => b
  | none => Config.unspecifiedByte freeCount j

/-- `frame[0..10]` after a decode step that read `bytes` (10_state.md R38). -/
def frameBuffer (bytes : List Byte) (freeCount : Nat) : Vector Byte 11 :=
  Vector.ofFn fun j : Fin 11 => frameEntry bytes freeCount j.val

/-- The read and the flush of a decode step: `fcount <- min(RxCount(), 11)`, the pops into `frame`, then `RxFlush()`
(40_frame_decoder.md R201, R202). -/
def readFrame (s : State) : State :=
  let n := min (rxCount s) 11
  let r := popBytes n s
  rxFlush { r.2 with
    fcount := ⟨n, by omega⟩
    frame := frameBuffer r.1 s.freeCount
    freeCount := s.freeCount + 1 }

/-- The bytes the current decode step read: `frame[j]` for j < `fcount`, and no other entry (R203). -/
def bytesRead (s : State) : List Byte := s.frame.toList.take s.fcount.val

/-! ## Events -/

/-- `TxWrite(b)`: emits the byte and completes within the step (R15, 10_state.md R32). -/
def txWrite (b : Byte) (s : State) : State := { s with trace := s.trace ++ [.tx b] }

/-- `Commit()`: emits one snapshot of all 88 entries of `pix` (R15, 20_memory.md R93). -/
def commit (s : State) : State := { s with trace := s.trace ++ [.commit s.pix] }

/-- `Hold(us)`: emits the wait and advances the abstract clock by `us` (R15, 10_state.md R44). -/
def hold (us : Nat) (s : State) : State := { s with trace := s.trace ++ [.hold us], tUs := s.tUs + us }

/-- The colors of the last commit of a trace. -/
def lastCommit : List Event → Option LedFrame
  | [] => none
  | e :: rest =>
    match lastCommit rest, e with
    | some p, _ => some p
    | none, .commit p => some p
    | none, _ => none

/-- What the physical LEDs show: the colors of the most recent `COMMIT` (10_state.md R33); before the first commit,
unknown (70_reset_and_hazards.md R612; log 13). -/
def physicalLeds (s : State) : LedFrame := (lastCommit s.trace).getD Config.ledsBeforeFirstCommit

/-! ## The pixel buffer -/

/-- `pix[i] <- c` (10_state.md R33). -/
def setPixel (i : LedIndex) (c : Color) (p : LedFrame) : LedFrame := p.set i.val c

/-- All 88 entries one color. -/
def uniformPixels (c : Color) : LedFrame := Vector.replicate 88 c

/-- `pix[i] <- OFF` for i in 0..87 (41_pattern_engine.md R300, R325, R326). -/
def clearPixels (s : State) : State := { s with pix := uniformPixels Color.off }

/-- The listed LEDs set to one color, in order. -/
def lightPixels (c : Color) (leds : List LedIndex) (p : LedFrame) : LedFrame :=
  leds.foldl (fun q i => setPixel i c q) p

/-! ## The pseudo-random stream -/

/-- `PRNG.next` with the raw value as a number in [0, 2^RAND_BITS - 1] (R11, R15; a free value, log 6). -/
def prngDraw (p : PrngState) : Nat × PrngState := ((Config.prngNext p).1.toNat, (Config.prngNext p).2)

/-! ## Errors -/

/-- `raise E`, the one way an error is taken (60_exceptions.md R502, R510, R516): `err_code` is written and the phase
becomes `HALTED` for AllocationFailure, `IDLE` for every decode-time error; nothing is saved, sent or shown. There is no
return operation (R517): the next decode proceeds normally from `IDLE`, and only a reset leaves `HALTED`. -/
def raise (e : ErrCode) (s : State) : State :=
  { s with errCode := e, phase := if e = .allocFail then .halted else .idle }

/-- The code of a FrameError (60_exceptions.md R501). -/
def frameErrorCode : FrameError → ErrCode
  | .short => .frameShort
  | .badStart => .frameStart
  | .badEnd => .frameEnd
  | .badCmd => .frameCmd

end Sys2Proof.Machine
end

