-- ==== Sys2Proof/Machine/Operands.lean ====
section
/-! DEFINITION. The operand forms: the duration numeral (spec/30_encoding.md R136), the note color
(spec/20_memory.md R99), and the topology's quadruples (R95 to R98). -/

namespace Sys2Proof.Machine

open Sys2Proof

/-- `ACK_BYTE`, ASCII `'1'` (00_scope.md R8, R9). -/
def ackByte : Byte := 0x31

/-- An ASCII digit, 0x30..0x39 (30_encoding.md R136, R138). -/
def isDigit (b : Byte) : Bool := decide (0x30 ≤ b.toNat ∧ b.toNat ≤ 0x39)

/-- The value of an ASCII digit. -/
def digitValue (b : Byte) : Nat := b.toNat - 0x30

/-- A byte that ends a numeral: 0x00 or 0x26 (R136). -/
def isTerminator (b : Byte) : Bool := decide (b = 0x00 ∨ b = 0x26)

/-- The loop of `ParseDuration` (R136) over the bytes from an offset on, with the value `v` and `any` saying that a digit
was read: `none` is DurationParseError. -/
def parseDigits (acceptEmpty : Bool) : List Byte → Nat → Bool → Option Nat
  | [], _, _ => none
  | b :: rest, v, any =>
    if isDigit b then parseDigits acceptEmpty rest (10 * v + digitValue b) true
    else if isTerminator b && (any || acceptEmpty) then some v
    else none

/-- `ParseDuration(frame)` (R136): offsets 3..9, then the end marker at offset 10, which is not a digit and so always
ends the numeral. -/
def parseDuration (acceptEmpty : Bool) (dur : DurField) : Option Nat :=
  parseDigits acceptEmpty (dur.toList ++ [endMarker]) 0 false

/-- `NOTE_COLOR[idx]` for an index already checked (20_memory.md R84). -/
def noteColor (c : Config) (idx : Fin 12) : Color := c.noteColor[idx.val]

/-- The six non-top zones in draw order (41_pattern_engine.md R323). -/
def sideZones : List SideZone := [.front, .back, .leftLeft, .leftRight, .rightLeft, .rightRight]

/-- `TOPOLOGY[z][s]` (20_memory.md R85, R95). -/
def sideQuad (t : Topology) : (z : SideZone) → Fin z.count → Quad
  | .front, s => t.front.get s
  | .back, s => t.back.get s
  | .leftLeft, s => t.leftLeft.get s
  | .leftRight, s => t.leftRight.get s
  | .rightLeft, s => t.rightLeft.get s
  | .rightRight, s => t.rightRight.get s

/-- `TOP_BASE[o]`: draw value 0 selects the first base, any other value of the draw mod 2 the second
(41_pattern_engine.md R324). -/
def topBase (c : Config) (o : Nat) : Fin 85 := if o = 0 then c.topBase0 else c.topBase1

/-- `subgroupsOf(zone)`, the ordered list of LED-index quadruples (20_memory.md R85); of the top zone, the quadruples of
its two base offsets (R96). -/
def subgroupsOf (c : Config) : Zone → List Quad
  | .side .front => c.topology.front.toList
  | .side .back => c.topology.back.toList
  | .side .leftLeft => c.topology.leftLeft.toList
  | .side .leftRight => c.topology.leftRight.toList
  | .side .rightLeft => c.topology.rightLeft.toList
  | .side .rightRight => c.topology.rightRight.toList
  | .top => [Quad.ofBase c.topBase0, Quad.ofBase c.topBase1]

/-- "The first n LEDs" of a quadruple: its elements 0..n-1 (00_scope.md R18, 20_memory.md R98). -/
def firstLeds (n : Nat) (q : Quad) : List LedIndex := q.toList.take n

/-- Every zone has a subgroup, so a draw can be reduced modulo its count. -/
theorem SideZone.count_pos (z : SideZone) : 0 < z.count := by cases z <;> decide

/-- `choose(count(z))` of a raw draw: reduced modulo the zone's count (41_pattern_engine.md R321). -/
def chooseSubgroup (z : SideZone) (raw : Nat) : Fin z.count := ⟨raw % z.count, Nat.mod_lt _ (SideZone.count_pos z)⟩

/-- The count draw: `(Draw() mod 4) + 1` (R322). -/
def chooseCount (raw : Nat) : Nat := raw % 4 + 1

end Sys2Proof.Machine
end

