-- ==== Sys2Proof/Machine/Flags.lean ====
section
/-! DEFINITION. The block has no arithmetic flags (spec/10_state.md R53); its one status bit is `stop`. This file holds
that bit's computation and the spec's numberings of phases, error codes, directions and zones. -/

namespace Sys2Proof.Machine

open Sys2Proof

/-- The poll of DRONE_WAIT: `if RxCount() > 0 and not stop: stop <- true`; it consumes nothing
(41_pattern_engine.md R342, 20_memory.md R94). -/
def pollStop (s : State) : State := if 0 < rxCount s ∧ s.stop = false then { s with stop := true } else s

/-- The 4-bit code of a phase (10_state.md R50). -/
def Phase.code : Phase → BitVec 4
  | .init => 0
  | .idle => 1
  | .allOff => 2
  | .droneEntry => 3
  | .droneShow => 4
  | .droneWait => 5
  | .flashShow => 6
  | .flashWait => 7
  | .halted => 8

/-- The phase of a code; the reserved codes 9..15 are refused (10_state.md R50, 93_implementation_defined.md I13). -/
def phaseOfCode (v : BitVec 4) : Option Phase :=
  match v.toNat with
  | 0 => some .init
  | 1 => some .idle
  | 2 => some .allOff
  | 3 => some .droneEntry
  | 4 => some .droneShow
  | 5 => some .droneWait
  | 6 => some .flashShow
  | 7 => some .flashWait
  | 8 => some .halted
  | _ => none

/-- The 3-bit diagnostic code (60_exceptions.md R501). -/
def ErrCode.code : ErrCode → BitVec 3
  | .none => 0
  | .frameShort => 1
  | .frameStart => 2
  | .frameEnd => 3
  | .frameCmd => 4
  | .noteIndex => 5
  | .durationParse => 6
  | .allocFail => 7

/-- The four error classes (60_exceptions.md R500). -/
inductive ErrorClass where
  | frameError | noteIndexError | durationParseError | allocationFailure
deriving DecidableEq, Repr

/-- The class of an error code (R501); NONE has none. -/
def errorClass : ErrCode → Option ErrorClass
  | .none => none
  | .frameShort => some .frameError
  | .frameStart => some .frameError
  | .frameEnd => some .frameError
  | .frameCmd => some .frameError
  | .noteIndex => some .noteIndexError
  | .durationParse => some .durationParseError
  | .allocFail => some .allocationFailure

/-- The bit of a direction: ASC = 0, DESC = 1 (10_state.md R37). -/
def Dir.bit : Dir → BitVec 1
  | .asc => 0
  | .desc => 1

/-- The zone ids 0..6 (00_scope.md R18). -/
def zoneId : Zone → Nat
  | .side .front => 0
  | .side .back => 1
  | .side .leftLeft => 2
  | .side .leftRight => 3
  | .side .rightLeft => 4
  | .side .rightRight => 5
  | .top => 6

end Sys2Proof.Machine
end

