-- ==== Sys2Proof/Machine/Frames.lean ====
section
/-! DEFINITION. The meanings of the three command frames (spec/40_frame_decoder.md R208 to R214). -/

namespace Sys2Proof.Machine

open Sys2Proof

/-- Acceptance of a frame (R208, R209): the acknowledgment is written, then `err_code` is NONE and the handler's phase is
set. -/
def accept (handler : Phase) (s : State) : State :=
  { txWrite ackByte s with errCode := .none, phase := handler }

/-- The command latch takes a kind without operands; `note` and `dur` keep their last values (10_state.md R39;
log 10). -/
def latchKind (kind : CmdKind) (s : State) : State := { s with cmd := { s.cmd with kind := kind } }

/-- The command latch and the flash registers take a validated NOTE (R209). -/
def latchNote (idx : Fin 12) (v : Nat) (s : State) : State :=
  { s with
    cmd := ⟨.note, BitVec.ofNat 4 idx.val, BitVec.ofNat 32 v⟩
    flColor := noteColor s.cfg idx
    flDur := BitVec.ofNat 32 v }

/-- DRONE_OFF (R210): `cmd <- DRONE_OFF; TxWrite(0x31); err_code <- NONE; phase <- ALL_OFF`. -/
def execDroneOff (s : State) : Host.Outcome State Fault Refusal := .next (accept .allOff (latchKind .droneOff s))

/-- DRONE_ON (R211): `cmd <- DRONE_ON; TxWrite(0x31); err_code <- NONE; phase <- DRONE_ENTRY`. -/
def execDroneOn (s : State) : Host.Outcome State Fault Refusal := .next (accept .droneEntry (latchKind .droneOn s))

/-- NOTE (R214): NoteIndexError for an index over 11, checked first (R212); DurationParseError for an ill-formed numeral
(R213); else the latch, the flash registers and the acknowledgment, and `phase <- FLASH_SHOW`. -/
def execNote (idx : Byte) (dur : DurField) (s : State) : Host.Outcome State Fault Refusal :=
  if h : idx.toNat ≤ 11 then
    match parseDuration s.cfg.acceptEmptyDuration dur with
    | some v => .next (accept .flashShow (latchNote ⟨idx.toNat, by omega⟩ v s))
    | none => .next (raise .durationParse s)
  else .next (raise .noteIndex s)

end Sys2Proof.Machine
end

