-- ==== Sys2Proof/Machine/Generator.lean ====
section
/-! DEFINITION. The brightness curve generator (spec/42_curve_generator.md). Every channel is the exact value of the
curve's formula, truncated once (R402); the channels are independent lanes (R403). -/

namespace Sys2Proof.Machine

open Sys2Proof

/-- A channel value as its 8-bit register holds it; every curve's value is in 0..255 (R408). -/
def channel (v : Nat) : BitVec 8 := BitVec.ofNat 8 v

/-- One formula applied to the three lanes of a color (R403). -/
def lanes (f : Nat → Nat) (a : Color) : Color := ⟨channel (f a.r.toNat), channel (f a.g.toNat), channel (f a.b.toNat)⟩

/-- One formula applied to the three lanes of two colors (R403, R406). -/
def lanes2 (f : Nat → Nat → Nat) (a b : Color) : Color :=
  ⟨channel (f a.r.toNat b.r.toNat), channel (f a.g.toNat b.g.toNat), channel (f a.b.toNat b.b.toNat)⟩

/-- The table `G[0..n-1]` whose element i is that of step number p = i + 1 (R400, R401); empty for n = 0 (R409). -/
def tableOf (n : Nat) (element : Nat → Color) : List Color := (List.range n).map fun i => element (i + 1)

/-- linear(t) = t: `(a_c * p) div N` (R404). -/
def linearChannel (n p a : Nat) : Nat := a * p / n

/-- quadratic(t) = t²: `(a_c * p * p) div (N * N)` (R405). -/
def quadraticChannel (n p a : Nat) : Nat := a * p * p / (n * n)

/-- minMaxQuadratic: `(m_c * N * N + (M_c - m_c) * p * p) div (N * N)` over the integers, truncated once (R406). -/
def minMaxChannel (n p m mx : Nat) : Nat :=
  (((m : Int) * n * n + ((mx : Int) - m) * p * p) / ((n : Int) * n)).toNat

/-- The largest y of 0..bound with y ^ n ≤ v. -/
def rootWithin (n v : Nat) : Nat → Nat
  | 0 => 0
  | y + 1 => if (y + 1) ^ n ≤ v then y + 1 else rootWithin n v y

/-- exponential(t): `floor(a_c ^ (p/N))`, the largest y with `y ^ N <= a_c ^ p`; 0 for a zero channel (R407). The search
starts at `a_c`, which bounds the result because p ≤ N (R408). -/
def exponentialChannel (n p a : Nat) : Nat := if a = 0 then 0 else rootWithin n (a ^ p) a

/-- The table of GEN_LINEAR (R404). -/
def linearTable (a : Color) (n : Nat) : List Color := tableOf n fun p => lanes (linearChannel n p) a

/-- The table of GEN_QUADRATIC (R405). -/
def quadraticTable (a : Color) (n : Nat) : List Color := tableOf n fun p => lanes (quadraticChannel n p) a

/-- The table of GEN_MINMAXQ (R406). -/
def minMaxTable (a b : Color) (n : Nat) : List Color := tableOf n fun p => lanes2 (minMaxChannel n p) a b

/-- The table of GEN_EXPONENTIAL (R407). -/
def exponentialTable (a : Color) (n : Nat) : List Color := tableOf n fun p => lanes (exponentialChannel n p) a

/-- Whether a table of n colors can be built (R410). -/
def canAllocate (c : Config) (n : Nat) : Bool := c.allocOk && decide (n ≤ c.tableCapacity)

/-- A generator operation (R400, R410): the result table, and nothing else; or AllocationFailure, which halts. -/
def generate (n : Nat) (table : List Color) (s : State) : Host.Outcome State Fault Refusal :=
  if canAllocate s.cfg n then .next { s with genOut := table } else .next (raise .allocFail s)

/-- GEN_LINEAR (R404). -/
def execGenLinear (a : Color) (n : Nat) (s : State) : Host.Outcome State Fault Refusal :=
  generate n (linearTable a n) s

/-- GEN_QUADRATIC (R405). -/
def execGenQuadratic (a : Color) (n : Nat) (s : State) : Host.Outcome State Fault Refusal :=
  generate n (quadraticTable a n) s

/-- GEN_MINMAXQ (R406). -/
def execGenMinMaxQ (a b : Color) (n : Nat) (s : State) : Host.Outcome State Fault Refusal :=
  generate n (minMaxTable a b n) s

/-- GEN_EXPONENTIAL (R407). -/
def execGenExponential (a : Color) (n : Nat) (s : State) : Host.Outcome State Fault Refusal :=
  generate n (exponentialTable a n) s

end Sys2Proof.Machine
end

