-- ==== Sys2Proof/Machine/Handlers.lean ====
section
/-! DEFINITION. The pattern engine (spec/41_pattern_engine.md): the handler steps of the sequencer. -/

namespace Sys2Proof.Machine

open Sys2Proof

/-! ## All-off -/

/-- The ALL_OFF step (R300). -/
def allOffStep (s : State) : State := { commit (clearPixels s) with phase := .idle }

/-! ## NoteFlash

The selection is written over any generator `next : S → raw × S` (00_scope.md R11); the machine gives it `prngDraw`. -/

/-- One non-top zone: the subgroup draw, then the count draw (R320, R322, R323); the LEDs it lights and the generator's
state after. -/
def selectSide {S : Type} (next : S → Nat × S) (t : Topology) (z : SideZone) (p : S) : List LedIndex × S :=
  let sub := next p
  let cnt := next sub.2
  (firstLeds (chooseCount cnt.1) (sideQuad t z (chooseSubgroup z sub.1)), cnt.2)

/-- The non-top zones in the given order (R323). -/
def selectSides {S : Type} (next : S → Nat × S) (t : Topology) : List SideZone → S → List LedIndex × S
  | [], p => ([], p)
  | z :: zs, p =>
    let here := selectSide next t z p
    let rest := selectSides next t zs here.2
    (here.1 ++ rest.1, rest.2)

/-- The top zone: the coin; 0 is dark with no further draw, 1 draws the base and the count (R324). -/
def selectTop {S : Type} (next : S → Nat × S) (c : Config) (p : S) : List LedIndex × S :=
  let coin := next p
  if coin.1 % 2 = 1 then
    let base := next coin.2
    let cnt := next base.2
    (firstLeds (chooseCount cnt.1) (Quad.ofBase (topBase c (base.1 % 2))), cnt.2)
  else ([], coin.2)

/-- The LEDs of one flash and the generator's state after its draws (R320). -/
def selectFlash {S : Type} (next : S → Nat × S) (c : Config) (p : S) : List LedIndex × S :=
  let sides := selectSides next c.topology sideZones p
  let top := selectTop next c sides.2
  (sides.1 ++ top.1, top.2)

/-- The composed frame: `OFF` everywhere, then the chosen LEDs in the flash color (R320, R325). -/
def composeFlash (color : Color) (leds : List LedIndex) : LedFrame :=
  lightPixels color leds (uniformPixels Color.off)

/-- The FLASH_SHOW step: compose and commit (R320). -/
def flashShowStep (s : State) : State :=
  let sel := selectFlash prngDraw s.cfg s.prng
  { commit { s with pix := composeFlash s.flColor sel.1, prng := sel.2 } with phase := .flashWait }

/-- The FLASH_WAIT step: hold, clear, commit (R326). -/
def flashWaitStep (s : State) : State :=
  { commit (clearPixels (hold s.flDur.toNat s)) with phase := .idle }

/-! ## DroneCycle -/

/-- The DRONE_ENTRY step (R340). -/
def droneEntryStep (s : State) : State :=
  if 0 < rxCount s then { s with phase := .idle }
  else { s with stop := false, dir := .asc, k := 0, phase := .droneShow }

/-- The color of drone step k: `(T[k].r, 0, 0)` (R341). -/
def droneColorAt (t : DroneTable) (k : Fin 100) : Color := ⟨t[k.val].r, 0, 0⟩

/-- The DRONE_SHOW step: render one drone step on all 88 LEDs (R341). -/
def droneShowStep (s : State) : State :=
  { commit { s with pix := uniformPixels (droneColorAt s.table s.k) } with phase := .droneWait }

/-- The hold of a drone step by its direction, in microseconds (R342). -/
def droneStepUs (c : Config) : Dir → Nat
  | .asc => c.ascendStepUs
  | .desc => c.descendStepUs

/-- Where a drone step leads: the next `dir`, `k` and phase, by `stop` at the end of a pass (R342, R343). -/
def nextDroneStep (dir : Dir) (k : Fin 100) (stop : Bool) : Dir × Fin 100 × Phase :=
  match dir with
  | .asc => if h : k.val < 99 then (.asc, ⟨k.val + 1, by omega⟩, .droneShow) else (.desc, k, .droneShow)
  | .desc =>
    if 0 < k.val then (.desc, ⟨k.val - 1, by omega⟩, .droneShow)
    else if stop then (.desc, k, .idle)
    else (.asc, 0, .droneShow)

/-- The advance of a drone step (R342). -/
def droneAdvance (s : State) : State :=
  let n := nextDroneStep s.dir s.k s.stop
  { s with dir := n.1, k := n.2.1, phase := n.2.2 }

/-- The DRONE_WAIT step: hold, poll, advance (R342). -/
def droneWaitStep (s : State) : State := droneAdvance (pollStop (hold (droneStepUs s.cfg s.dir) s))

end Sys2Proof.Machine
end

