-- ==== Sys2Proof/Machine/Fetch.lean ====
section
/-! DEFINITION. What one turn does before and after an instruction: whose turn it is, what the block's phase makes it do
(spec/10_state.md R50), where the instruction comes from, and what the `INIT` step does with the generator's result. -/

namespace Sys2Proof.Machine

open Sys2Proof

/-- What a turn turns out to be: a whole step that runs no instruction, or an instruction to run at a state. -/
inductive Fetched where
  /-- the step is complete -/
  | done (o : Host.Outcome State Fault Refusal)
  /-- run this instruction at this state -/
  | run (i : Instr) (s : State)

/-- The decode step up to its dispatch (40_frame_decoder.md R200 to R206): with no byte pending the block waits
(10_state.md R51; log 2); else the read, the flush and the checks. -/
def fetchFrame (s : State) : Fetched :=
  if rxCount s = 0 then .done (.next s)
  else
    match decodeFrame (bytesRead (readFrame s)) with
    | .error e => .done (.next (raise (frameErrorCode e) (readFrame s)))
    | .ok i => .run i (readFrame s)

/-- What a block step does, by phase (10_state.md R50). -/
def fetchBlock (s : State) : Fetched :=
  match s.phase with
  | .init => .run (decodeControl s.genWord) s
  | .idle => fetchFrame s
  | .allOff => .done (.next (allOffStep s))
  | .droneEntry => .done (.next (droneEntryStep s))
  | .droneShow => .done (.next (droneShowStep s))
  | .droneWait => .done (.next (droneWaitStep s))
  | .flashShow => .done (.next (flashShowStep s))
  | .flashWait => .done (.next (flashWaitStep s))
  | .halted => .done (.fault .halted)

/-- What the next turn does (10_state.md R30, R31; log 1): the host's is its `HostSend`. -/
def fetch (s : State) : Fetched :=
  match s.turns with
  | [] => fetchBlock s
  | .block :: rest => fetchBlock { s with turns := rest }
  | .host b :: rest => .done (.next (hostSend b { s with turns := rest }))

/-- `T <- G`: entry k takes the generator's element k; an entry for which the result has no element keeps its value,
which the startup's N = 100 never leaves (log 11). -/
def loadTable (g : List Color) (t : DroneTable) : DroneTable :=
  Vector.ofFn fun k : Fin 100 => g.getD k.val t[k.val]

/-- What the step does once the instruction has run: the `INIT` step stores the table and goes to `IDLE`
(70_reset_and_hazards.md R601); a decode step has nothing left to do. After AllocationFailure the phase is `HALTED` and
nothing is stored. -/
def retire (s : State) : State :=
  if s.phase = .init then { s with table := loadTable s.genOut s.table, phase := .idle } else s

/-- An instruction's outcome, retired; a fault or a refusal stays. -/
def retireOutcome : Host.Outcome State Fault Refusal → Host.Outcome State Fault Refusal
  | .next s => .next (retire s)
  | .fault f => .fault f
  | .refused r => .refused r

/-! ## Placing an instruction where the next step fetches it (log 3) -/

/-- The frame's bytes are the FIFO's contents and the block is about to decode. -/
def placeFrame (bytes : List Byte) (s : State) : State :=
  { s with turns := .block :: s.turns, phase := .idle, rx := bytes }

/-- The control word is the generator's and the block is about to take its `INIT` step. -/
def placeControl (w : GenWord) (s : State) : State :=
  { s with turns := .block :: s.turns, phase := .init, genWord := w }

end Sys2Proof.Machine
end

