-- ==== Sys2Proof/Machine/Dispatch.lean ====
section
/-! DEFINITION. The meaning of each instruction, one arm per constructor. -/

namespace Sys2Proof.Machine

open Sys2Proof

def exec (i : Instr) (s : State) : Host.Outcome State Fault Refusal :=
  match i with
  | .droneOff => Sys2Proof.Machine.execDroneOff s
  | .droneOn => Sys2Proof.Machine.execDroneOn s
  | .note idx dur => Sys2Proof.Machine.execNote idx dur s
  | .genLinear a n => Sys2Proof.Machine.execGenLinear a n s
  | .genQuadratic a n => Sys2Proof.Machine.execGenQuadratic a n s
  | .genMinMaxQ a b n => Sys2Proof.Machine.execGenMinMaxQ a b n s
  | .genExponential a n => Sys2Proof.Machine.execGenExponential a n s

end Sys2Proof.Machine
end

