-- ==== Sys2Proof/Machine/Step.lean ====
section
/-! DEFINITION. One step of the machine: one turn of the block or of the host (spec/10_state.md R30). -/

namespace Sys2Proof.Machine

open Sys2Proof

/-- One turn: fetch, run the instruction if there is one, retire. -/
def step (s : State) : Host.Outcome State Fault Refusal :=
  match fetch s with
  | .done o => o
  | .run i s1 => retireOutcome (exec i s1)

/-- The state with the instruction of an opcode-table word stored where the next step fetches it: a frame of 88 bits in
the receive FIFO, any other word as the generator's control word (log 3, log 12). -/
def State.withFetchWord (s : State) (nbits w : Nat) : State :=
  if nbits = frameBits then placeFrame (frameOfWord w) s else placeControl (genWordOfWord w) s

end Sys2Proof.Machine
end

