-- ==== Sys2Proof/Safety.lean ====
section
/-! DEFINITION. What counts as a good state and as indistinguishable states, in the terms the statements use. -/

namespace Sys2Proof.Machine

open Sys2Proof

/-- The total of the holds of a trace, in microseconds (10_state.md R44). -/
def heldTime : List Event → Nat
  | [] => 0
  | .hold us :: rest => us + heldTime rest
  | .tx _ :: rest => heldTime rest
  | .commit _ :: rest => heldTime rest

/-- `m` steps, stopping at the first fault or refusal: the host's `Core.run` of this machine (Laws/Run.lean). -/
def run : Nat → State → Host.Outcome State Fault Refusal
  | 0, s => .next s
  | m + 1, s =>
    match step s with
    | .next s' => run m s'
    | .fault f => .fault f
    | .refused r => .refused r

/-- The block has not halted: the premise of a claim about accepted frames (60_exceptions.md R511). -/
def NotHalted (s : State) : Prop := s.phase ≠ .halted

/-- The next turn of `s` is the block's, and `s0` is `s` with that turn taken from the schedule (log 1). -/
def BlockTurn (s s0 : State) : Prop :=
  (s.turns = [] ∧ s0 = s) ∨ ∃ rest, s.turns = .block :: rest ∧ s0 = { s with turns := rest }

/-- The bytes a decode step reads are an acceptable frame: they decode to a well-formed instruction. -/
def AcceptedFrame (c : Config) (bytes : List Byte) : Prop :=
  ∃ i, decodeFrame bytes = .ok i ∧ i.wf c = true

/-- The colors a trace's commits show, in order. -/
def commitsOf : List Event → List LedFrame
  | [] => []
  | .commit p :: rest => p :: commitsOf rest
  | .tx _ :: rest => commitsOf rest
  | .hold _ :: rest => commitsOf rest

/-- The bytes a trace sends, in order. -/
def bytesSent : List Event → List Byte
  | [] => []
  | .tx b :: rest => b :: bytesSent rest
  | .commit _ :: rest => bytesSent rest
  | .hold _ :: rest => bytesSent rest

/-- The generator's state after n draws from `p` (00_scope.md R15, 41_pattern_engine.md R330). -/
def prngAfter : Nat → PrngState → PrngState
  | 0, p => p
  | n + 1, p => prngAfter n (prngDraw p).2

/-- The raw value of draw number j (counted from 0) from `p`. -/
def rawDraw (p : PrngState) (j : Nat) : Nat := (prngDraw (prngAfter j p)).1

/-- The drone table holds, on every channel, `floor(DRONE_COLOR.c * (k+1)^2 / 10000)` (42_curve_generator.md R411). -/
def DroneTableBuilt (c : Config) (t : DroneTable) : Prop :=
  ∀ k : Fin 100,
    t[k.val].r.toNat = c.droneColor.r.toNat * (k.val + 1) ^ 2 / 10000
      ∧ t[k.val].g.toNat = c.droneColor.g.toNat * (k.val + 1) ^ 2 / 10000
      ∧ t[k.val].b.toNat = c.droneColor.b.toNat * (k.val + 1) ^ 2 / 10000

/-- The phases in which no handler has pixels lit (10_state.md R52 and the phases around `IDLE`). -/
def darkPhase : Phase → Bool
  | .init => true
  | .idle => true
  | .allOff => true
  | .droneEntry => true
  | .droneShow => false
  | .droneWait => false
  | .flashShow => true
  | .flashWait => false
  | .halted => true

/-- The machine's invariant. -/
structure Inv (s : State) : Prop where
  /-- the FIFO is within `RX_DEPTH` (10_state.md R31, R37) -/
  rxFits : ∀ d, s.cfg.rxDepth = some d → s.rx.length ≤ d
  /-- a latched NOTE has an index of 0..11 and a duration of at most 9,999,999 (R39) -/
  latch : s.cmd.kind = .note → s.cmd.note.toNat ≤ 11 ∧ s.cmd.dur.toNat ≤ 9999999
  /-- the flash duration is at most 9,999,999 (30_encoding.md R137) -/
  flDur : s.flDur.toNat ≤ 9999999
  /-- the clock is the total of the holds (R44) -/
  clock : s.tUs = heldTime s.trace
  /-- the only byte ever sent is the acknowledgment (R32) -/
  acks : ∀ b, .tx b ∈ s.trace → b = 0x31
  /-- the generator's control word is the startup operation (30_encoding.md R144) -/
  startup : s.genWord = startupWord s.cfg
  /-- after startup the drone table is built (R42) -/
  table : s.phase ≠ .init → s.phase ≠ .halted → DroneTableBuilt s.cfg s.table
  /-- only AllocationFailure halts (60_exceptions.md R510) -/
  haltCause : s.phase = .halted → s.errCode = .allocFail
  /-- outside the lit phases every pixel is `OFF` (R52) -/
  dark : darkPhase s.phase = true → s.pix = uniformPixels Color.off
  /-- after DRONE_SHOW the pixels show drone step k (41_pattern_engine.md R341) -/
  shown : s.phase = .droneWait → s.pix = uniformPixels (droneColorAt s.table s.k)

/-- The drone runs and nobody disturbs it: the phase is one of its three, `stop` is clear once a pass has begun, no byte is
pending, and every turn to come is the block's (41_pattern_engine.md R340, R342, R346). -/
structure DroneUndisturbed (s : State) : Prop where
  phase : s.phase = .droneEntry ∨ ((s.phase = .droneShow ∨ s.phase = .droneWait) ∧ s.stop = false)
  rx : s.rx = []
  turns : ∀ x ∈ s.turns, x = .block

/-- Two states that differ at most in what no rule lets anyone observe or read: the frame buffer, `fcount`, the command
latch, `err_code`, the generator's last result and the model's counter (00_scope.md R17, 10_state.md R38, R39, 60 R501). -/
structure ObsEq (s t : State) : Prop where
  rx : s.rx = t.rx
  phase : s.phase = t.phase
  dir : s.dir = t.dir
  k : s.k = t.k
  stop : s.stop = t.stop
  flColor : s.flColor = t.flColor
  flDur : s.flDur = t.flDur
  prng : s.prng = t.prng
  tUs : s.tUs = t.tUs
  pix : s.pix = t.pix
  table : s.table = t.table
  cfg : s.cfg = t.cfg
  genWord : s.genWord = t.genWord
  trace : s.trace = t.trace
  turns : s.turns = t.turns

end Sys2Proof.Machine
end

