-- ==== Sys2Proof/Certificates/Slice0/Obligations.lean ====
section
/-! DEFINITION. The statements for the provers. Each docstring names the rules of spec/ it formalises; a statement that
rests on a choice of the model says so and names the log entry. -/

open Sys2Proof Sys2Proof.Machine

/-! ## Encoding -/

/-- Decode and encode agree for every instruction, with every operand at every value, both on bytes and control words and
in the numbering of the opcode table. That an encoder writes zeros in don't-care bytes, and where `A`, `B` and `N` lie in a
control word, are the model's choices (log 17, log 12). -/
def Obligations.DecodeOfEncodeIsInstruction : Prop :=
  ∀ i : Instr, decode (encode i) = .ok i
    ∧ decodeTableWord (encodeTableWord i).1 (encodeTableWord i).2 = some i

/-- Words written out from the spec decode to their instructions: the frames of R145 and R147 as bytes, and the `match`
word of every row of the opcode table, the three frames and the four curves. That a word of 8 bits is read as a control word,
with zeros for the operands above the table's bits, is the model's choice (log 12). -/
def Obligations.SpecWordsDecodeToTheirInstructions : Prop :=
  decodeFrame [0x25, 0x30, 0, 0, 0, 0, 0, 0, 0, 0, 0x26] = .ok .droneOff
    ∧ decodeFrame [0x25, 0x31, 0, 0, 0, 0, 0, 0, 0, 0, 0x26] = .ok .droneOn
    ∧ decodeFrame [0x25, 0x32, 0, 0x31, 0x32, 0x30, 0, 0, 0, 0, 0x26]
      = .ok (.note 0 #v[0x31, 0x32, 0x30, 0, 0, 0, 0])
    ∧ decodeTableWord 88 0x2530000000000000000026 = some .droneOff
    ∧ decodeTableWord 88 0x2531000000000000000026 = some .droneOn
    ∧ decodeTableWord 88 0x2532000000000000000026 = some (.note 0 #v[0, 0, 0, 0, 0, 0, 0])
    ∧ decodeTableWord 8 0x0 = some (.genLinear Color.off 0)
    ∧ decodeTableWord 8 0x1 = some (.genQuadratic Color.off 0)
    ∧ decodeTableWord 8 0x2 = some (.genMinMaxQ Color.off Color.off 0)
    ∧ decodeTableWord 8 0x3 = some (.genExponential Color.off 0)

/-- All four `CURVE` values are defined (R143, R144): each control word is one generator operation on its operands, and
`B` is ignored but by minMaxQuadratic. -/
def Obligations.EveryControlWordIsAGeneratorOperation : Prop :=
  ∀ w : GenWord,
    (w.curve = 0 → decodeControl w = .genLinear w.a w.n)
      ∧ (w.curve = 1 → decodeControl w = .genQuadratic w.a w.n)
      ∧ (w.curve = 2 → decodeControl w = .genMinMaxQ w.a w.b w.n)
      ∧ (w.curve = 3 → decodeControl w = .genExponential w.a w.n)
      ∧ (w.curve = 0 ∨ w.curve = 1 ∨ w.curve = 2 ∨ w.curve = 3)

/-- The decoder's verdicts in their order (R203 to R206, R504): short, start marker, end marker, then the command map of
R139 or an unknown command. -/
def Obligations.FrameVerdictsInOrder : Prop :=
  ∀ bytes : List Byte,
    (bytes.length < 11 → decodeFrame bytes = .error .short)
      ∧ ∀ h : 11 ≤ bytes.length,
        (bytes[0] ≠ 0x25 → decodeFrame bytes = .error .badStart)
          ∧ (bytes[0] = 0x25 → bytes[10] ≠ 0x26 → decodeFrame bytes = .error .badEnd)
          ∧ (bytes[0] = 0x25 → bytes[10] = 0x26 →
            (bytes[1] = 0x30 → decodeFrame bytes = .ok .droneOff)
              ∧ (bytes[1] = 0x31 → decodeFrame bytes = .ok .droneOn)
              ∧ (bytes[1] = 0x32 → decodeFrame bytes = .ok (.note bytes[2]
                  #v[bytes[3], bytes[4], bytes[5], bytes[6], bytes[7], bytes[8], bytes[9]]))
              ∧ (bytes[1] ≠ 0x30 → bytes[1] ≠ 0x31 → bytes[1] ≠ 0x32 → decodeFrame bytes = .error .badCmd))

/-- Eleven bytes decode to a NOTE exactly when they are that NOTE's encoding, and to DRONE_OFF or DRONE_ON exactly when
the marker and command bytes say so: no frame is read as another's (R139, R142). -/
def Obligations.ElevenBytesDecodeExactlyAsEncoded : Prop :=
  ∀ bytes : List Byte, (h : bytes.length = 11) →
    (∀ idx dur, decodeFrame bytes = .ok (.note idx dur) ↔ encode (.note idx dur) = .frame bytes)
      ∧ (decodeFrame bytes = .ok .droneOff ↔ bytes[0] = 0x25 ∧ bytes[1] = 0x30 ∧ bytes[10] = 0x26)
      ∧ (decodeFrame bytes = .ok .droneOn ↔ bytes[0] = 0x25 ∧ bytes[1] = 0x31 ∧ bytes[10] = 0x26)

/-- Don't-care bytes (R141): for CMD 0x30 and 0x31 the bytes at offsets 2..9 are not examined; for NOTE the bytes after
the duration terminator are not examined, by the meaning included. -/
def Obligations.DontCareBytesAreNotExamined : Prop :=
  (∀ c x x' : List Byte, x.length = 8 → x'.length = 8 → (c = [0x25, 0x30] ∨ c = [0x25, 0x31]) → ∀ e : Byte,
      decodeFrame (c ++ x ++ [e]) = decodeFrame (c ++ x' ++ [e]))
    ∧ ∀ (idx : Byte) (dur dur' : DurField) (digits rest rest' : List Byte) (t : Byte) (s : State),
      (t = 0x00 ∨ t = 0x26) → dur.toList = digits ++ t :: rest → dur'.toList = digits ++ t :: rest' →
        exec (.note idx dur) s = exec (.note idx dur') s

/-! ## The duration numeral -/

/-- The duration numeral (R136, R137): a field parses to v exactly when it is a run of digits whose decimal value is v,
ended by 0x00, by 0x26 or by the end of the field, and a run without digits needs `ACCEPT_EMPTY_DURATION`; v is at most
9,999,999, so 32 bits hold it. -/
def Obligations.DurationNumeralValue : Prop :=
  ∀ (acceptEmpty : Bool) (dur : DurField) (v : Nat),
    (parseDuration acceptEmpty dur = some v ↔
      ∃ (digits : List Nat) (rest : List Byte),
        (∀ d ∈ digits, d < 10)
          ∧ dur.toList = digits.map (fun d => BitVec.ofNat 8 (0x30 + d)) ++ rest
          ∧ (rest = [] ∨ ∃ t rest', rest = t :: rest' ∧ (t = 0x00 ∨ t = 0x26))
          ∧ (digits = [] → acceptEmpty = true)
          ∧ v = Nat.ofDigits 10 digits.reverse)
      ∧ (parseDuration acceptEmpty dur = some v → v ≤ 9999999 ∧ (BitVec.ofNat 32 v).toNat = v)

/-- Characters that are neither digits nor terminators end the digit run and make the numeral ill formed (R138). -/
def Obligations.OtherCharactersMakeTheNumeralIllFormed : Prop :=
  ∀ (acceptEmpty : Bool) (dur : DurField) (digits rest : List Byte) (t : Byte),
    (∀ d ∈ digits, 0x30 ≤ d.toNat ∧ d.toNat ≤ 0x39) → ¬(0x30 ≤ t.toNat ∧ t.toNat ≤ 0x39) → t ≠ 0x00 → t ≠ 0x26 →
      dur.toList = digits ++ t :: rest → parseDuration acceptEmpty dur = none

/-- The parser and the declarative well-formedness of a NOTE agree (R136). -/
def Obligations.ParsesExactlyWhenWellFormed : Prop :=
  ∀ (acceptEmpty : Bool) (dur : DurField), (parseDuration acceptEmpty dur).isSome = durationWellFormed acceptEmpty dur

/-! ## The commands -/

/-- DRONE_OFF completes in every state (R210): the latch's kind, the acknowledgment, `err_code` NONE, phase ALL_OFF, and
nothing else. That the latch keeps `note` and `dur` is the model's reading (log 10). -/
def Obligations.DroneOffCompletes : Prop :=
  ∀ s : State, exec .droneOff s = .next { s with
    cmd := ⟨.droneOff, s.cmd.note, s.cmd.dur⟩
    trace := s.trace ++ [.tx 0x31]
    errCode := .none
    phase := .allOff }

/-- DRONE_ON completes in every state (R211): as DRONE_OFF, with phase DRONE_ENTRY (log 10). -/
def Obligations.DroneOnCompletes : Prop :=
  ∀ s : State, exec .droneOn s = .next { s with
    cmd := ⟨.droneOn, s.cmd.note, s.cmd.dur⟩
    trace := s.trace ++ [.tx 0x31]
    errCode := .none
    phase := .droneEntry }

/-- NOTE with an index of 0..11 and a well-formed numeral completes (R214): the latch, the flash color and duration, the
acknowledgment, `err_code` NONE, phase FLASH_SHOW, and nothing else; the latched numbers are the operands' values. -/
def Obligations.NoteCompletes : Prop :=
  ∀ (s : State) (idx : Byte) (dur : DurField) (v : Nat) (h : idx.toNat ≤ 11),
    parseDuration s.cfg.acceptEmptyDuration dur = some v →
      ∃ (n : BitVec 4) (d : BitVec 32), n.toNat = idx.toNat ∧ d.toNat = v
        ∧ exec (.note idx dur) s = .next { s with
            cmd := ⟨.note, n, d⟩
            flColor := s.cfg.noteColor[idx.toNat]
            flDur := d
            trace := s.trace ++ [.tx 0x31]
            errCode := .none
            phase := .flashShow }

/-- A NOTE with an index over 11 is NoteIndexError whatever its numeral (R212): `err_code` and phase IDLE, nothing else;
no acknowledgment. -/
def Obligations.NoteIndexOverElevenIsRejected : Prop :=
  ∀ (s : State) (idx : Byte) (dur : DurField), 11 < idx.toNat →
    exec (.note idx dur) s = .next { s with errCode := .noteIndex, phase := .idle }

/-- A NOTE with a valid index and an ill-formed numeral is DurationParseError (R213): `err_code` and phase IDLE, nothing
else; no acknowledgment. -/
def Obligations.IllFormedDurationIsRejected : Prop :=
  ∀ (s : State) (idx : Byte) (dur : DurField), idx.toNat ≤ 11 →
    durationWellFormed s.cfg.acceptEmptyDuration dur = false →
      exec (.note idx dur) s = .next { s with errCode := .durationParse, phase := .idle }

/-! ## The generator -/

/-- GEN_LINEAR (R404): with `N > TABLE_CAPACITY` or `alloc_ok` false it takes AllocationFailure, which sets `err_code`
and halts (R410); otherwise it completes, changing only its result, whose element i holds `(a_c * (i+1)) div N` on every
channel; the last element is `A`. -/
def Obligations.GenLinearBuildsItsTable : Prop :=
  ∀ (s : State) (a : Color) (n : Nat),
    (s.cfg.allocOk = false ∨ s.cfg.tableCapacity < n →
        exec (.genLinear a n) s = .next { s with errCode := .allocFail, phase := .halted })
      ∧ (s.cfg.allocOk = true → n ≤ s.cfg.tableCapacity →
        ∃ g : List Color, exec (.genLinear a n) s = .next { s with genOut := g } ∧ g.length = n
          ∧ (∀ i (h : i < g.length), g[i].r.toNat = a.r.toNat * (i + 1) / n ∧ g[i].g.toNat = a.g.toNat * (i + 1) / n
              ∧ g[i].b.toNat = a.b.toNat * (i + 1) / n)
          ∧ (0 < n → g.getLast? = some a))

/-- GEN_QUADRATIC (R405): as GEN_LINEAR with `(a_c * (i+1)^2) div N^2`. -/
def Obligations.GenQuadraticBuildsItsTable : Prop :=
  ∀ (s : State) (a : Color) (n : Nat),
    (s.cfg.allocOk = false ∨ s.cfg.tableCapacity < n →
        exec (.genQuadratic a n) s = .next { s with errCode := .allocFail, phase := .halted })
      ∧ (s.cfg.allocOk = true → n ≤ s.cfg.tableCapacity →
        ∃ g : List Color, exec (.genQuadratic a n) s = .next { s with genOut := g } ∧ g.length = n
          ∧ (∀ i (h : i < g.length), g[i].r.toNat = a.r.toNat * (i + 1) ^ 2 / n ^ 2
              ∧ g[i].g.toNat = a.g.toNat * (i + 1) ^ 2 / n ^ 2 ∧ g[i].b.toNat = a.b.toNat * (i + 1) ^ 2 / n ^ 2)
          ∧ (0 < n → g.getLast? = some a))

/-- GEN_MINMAXQ (R406): element i is the floor of `m_c + (M_c - m_c) * t^2`, the whole sum truncated once, over the
integers, and lies between the two colors' channels; the last element is `B`. -/
def Obligations.GenMinMaxQBuildsItsTable : Prop :=
  ∀ (s : State) (a b : Color) (n : Nat),
    (s.cfg.allocOk = false ∨ s.cfg.tableCapacity < n →
        exec (.genMinMaxQ a b n) s = .next { s with errCode := .allocFail, phase := .halted })
      ∧ (s.cfg.allocOk = true → n ≤ s.cfg.tableCapacity →
        ∃ g : List Color, exec (.genMinMaxQ a b n) s = .next { s with genOut := g } ∧ g.length = n
          ∧ (∀ i (h : i < g.length) (m mx out : BitVec 8),
              ((m, mx, out) = (a.r, b.r, g[i].r) ∨ (m, mx, out) = (a.g, b.g, g[i].g) ∨ (m, mx, out) = (a.b, b.b, g[i].b)) →
                (out.toNat : Int)
                    = ((m.toNat : Int) * n ^ 2 + ((mx.toNat : Int) - m.toNat) * (i + 1) ^ 2) / (n : Int) ^ 2
                  ∧ min m.toNat mx.toNat ≤ out.toNat ∧ out.toNat ≤ max m.toNat mx.toNat)
          ∧ (0 < n → g.getLast? = some b))

/-- GEN_EXPONENTIAL (R407): a zero channel gives 0; any other channel of element i is the largest y with
`y^N <= a_c^(i+1)`, at least 1; the last element is `A`. -/
def Obligations.GenExponentialBuildsItsTable : Prop :=
  ∀ (s : State) (a : Color) (n : Nat),
    (s.cfg.allocOk = false ∨ s.cfg.tableCapacity < n →
        exec (.genExponential a n) s = .next { s with errCode := .allocFail, phase := .halted })
      ∧ (s.cfg.allocOk = true → n ≤ s.cfg.tableCapacity →
        ∃ g : List Color, exec (.genExponential a n) s = .next { s with genOut := g } ∧ g.length = n
          ∧ (∀ i (h : i < g.length) (x out : BitVec 8),
              ((x, out) = (a.r, g[i].r) ∨ (x, out) = (a.g, g[i].g) ∨ (x, out) = (a.b, g[i].b)) →
                (x.toNat = 0 → out.toNat = 0)
                  ∧ (1 ≤ x.toNat → 1 ≤ out.toNat ∧ out.toNat ≤ x.toNat ∧ out.toNat ^ n ≤ x.toNat ^ (i + 1)
                    ∧ x.toNat ^ (i + 1) < (out.toNat + 1) ^ n))
          ∧ (0 < n → g.getLast? = some a))

/-- The curves are monotone (R408): linear, quadratic and exponential are non-decreasing on every channel and never over
the seed's; minMaxQuadratic moves from the min color's channel towards the max color's. -/
def Obligations.CurvesAreMonotone : Prop :=
  ∀ (a b : Color) (n i j : Nat), i ≤ j → j < n →
    (∀ t ∈ [linearTable a n, quadraticTable a n, exponentialTable a n], ∀ x y : Color,
        t[i]? = some x → t[j]? = some y →
          (x.r.toNat ≤ y.r.toNat ∧ y.r.toNat ≤ a.r.toNat) ∧ (x.g.toNat ≤ y.g.toNat ∧ y.g.toNat ≤ a.g.toNat)
            ∧ (x.b.toNat ≤ y.b.toNat ∧ y.b.toNat ≤ a.b.toNat))
      ∧ ∀ x y : Color, (minMaxTable a b n)[i]? = some x → (minMaxTable a b n)[j]? = some y →
        (a.r.toNat ≤ b.r.toNat → x.r.toNat ≤ y.r.toNat) ∧ (b.r.toNat ≤ a.r.toNat → y.r.toNat ≤ x.r.toNat)
          ∧ (a.g.toNat ≤ b.g.toNat → x.g.toNat ≤ y.g.toNat) ∧ (b.g.toNat ≤ a.g.toNat → y.g.toNat ≤ x.g.toNat)
          ∧ (a.b.toNat ≤ b.b.toNat → x.b.toNat ≤ y.b.toNat) ∧ (b.b.toNat ≤ a.b.toNat → y.b.toNat ≤ x.b.toNat)

/-- N = 0 gives the empty table; N = 1 gives one element equal to `A`, or to `B` for minMaxQuadratic (R409). -/
def Obligations.TablesOfLengthZeroAndOne : Prop :=
  ∀ a b : Color,
    (linearTable a 0 = [] ∧ quadraticTable a 0 = [] ∧ minMaxTable a b 0 = [] ∧ exponentialTable a 0 = [])
      ∧ (linearTable a 1 = [a] ∧ quadraticTable a 1 = [a] ∧ minMaxTable a b 1 = [b] ∧ exponentialTable a 1 = [a])

/-! ## The decode step -/

/-- A decode step runs the decoded instruction (R200 to R202, R206, R209): in `IDLE` with bytes pending, if the first eleven
pending bytes decode to i, the step is exec of i at the state in which those bytes are in `frame` and the FIFO is empty. That
this state has the model's counter `freeCount` raised by 1 is the model's choice (log 9). -/
def Obligations.DecodeStepRunsTheInstruction : Prop :=
  ∀ (s s0 : State) (i : Instr), BlockTurn s s0 → s0.phase = .idle → s0.rx ≠ [] →
    decodeFrame (s0.rx.take 11) = .ok i →
      ∃ (fr : Vector Byte 11) (n : Fin 12), n.val = min s0.rx.length 11
        ∧ (∀ j (h : j < 11) (h' : j < s0.rx.length), fr[j] = s0.rx[j])
        ∧ step s = exec i { s0 with rx := [], frame := fr, fcount := n, freeCount := s0.freeCount + 1 }

/-- The `INIT` step runs the decoded control word and stores a complete result (70_reset_and_hazards.md R601): if exec of
the instruction answers next in phase INIT with a result of 100 colors, the step stores them in `T` and goes to IDLE; if it
answers HALTED, the step ends there. That the control word is a state field is the model's choice (log 11). -/
def Obligations.InitStepRunsTheControlWord : Prop :=
  ∀ s s0 s1 : State, BlockTurn s s0 → s0.phase = .init → exec (decodeControl s0.genWord) s0 = .next s1 →
    (s1.phase = .halted → step s = .next s1)
      ∧ (s1.genOut.length = 100 → s1.phase = .init → ∃ t : DroneTable,
          step s = .next { s1 with table := t, phase := .idle } ∧ t.toList = s1.genOut)

/-- A rejected decode step is a silent drop (R207, 60_exceptions.md R502, R503): its only changes are the FIFO, `frame`,
`fcount`, `err_code` (and the model's counter, log 9); the phase is IDLE and no event is added. -/
def Obligations.RejectedFrameIsSilentlyDropped : Prop :=
  ∀ (s s0 : State) (code : ErrCode), BlockTurn s s0 → s0.phase = .idle → s0.rx ≠ [] →
    ((∃ e, decodeFrame (s0.rx.take 11) = .error e ∧ code = frameErrorCode e)
      ∨ (∃ idx dur, decodeFrame (s0.rx.take 11) = .ok (.note idx dur) ∧ 11 < idx.toNat ∧ code = .noteIndex)
      ∨ (∃ idx dur, decodeFrame (s0.rx.take 11) = .ok (.note idx dur) ∧ idx.toNat ≤ 11
          ∧ parseDuration s0.cfg.acceptEmptyDuration dur = none ∧ code = .durationParse)) →
      ∃ (fr : Vector Byte 11) (n : Fin 12), n.val = min s0.rx.length 11
        ∧ (∀ j (h : j < 11) (h' : j < s0.rx.length), fr[j] = s0.rx[j])
        ∧ step s = .next { s0 with
            rx := [], frame := fr, fcount := n, freeCount := s0.freeCount + 1, errCode := code, phase := .idle }

/-- An accepted frame gets exactly one acknowledgment and a rejected one none (R208, R216): every decode step completes,
leaves the FIFO empty, and adds `TX(0x31)` and nothing else exactly when the frame is acceptable. -/
def Obligations.AckExactlyForAcceptedFrames : Prop :=
  ∀ s s0 : State, BlockTurn s s0 → s0.phase = .idle → s0.rx ≠ [] →
    ∃ t, step s = .next t ∧ t.rx = []
      ∧ (AcceptedFrame s0.cfg (s0.rx.take 11) → t.trace = s0.trace ++ [.tx 0x31] ∧ t.phase ≠ .idle)
      ∧ (¬AcceptedFrame s0.cfg (s0.rx.take 11) → t.trace = s0.trace ∧ t.phase = .idle)

/-- Only the first frame counts (20_memory.md R90 (b), 70_reset_and_hazards.md R622): whatever follows the first eleven
pending bytes, the decode step is the one on those eleven alone. -/
def Obligations.BytesAfterTheFirstFrameAreFlushed : Prop :=
  ∀ (s s0 : State) (first rest : List Byte), BlockTurn s s0 → s0.phase = .idle → first.length = 11 →
    s0.rx = first ++ rest → step s = step { s with rx := first }

/-- A frame split by a decode step is rejected in both steps (20_memory.md R90 (a), 70_reset_and_hazards.md R621): the
host's bytes arrive in two parts with a decode step after each. Each decode step reads the whole part that has arrived,
reports FRAME_SHORT, empties the FIFO and goes back to IDLE; no event is added, and no pixel and no latch changes. -/
def Obligations.SplitFrameIsRejectedTwice : Prop :=
  ∀ (s : State) (first second : List Byte), s.phase = .idle → s.rx = [] → first ≠ [] → second ≠ [] →
    first.length + second.length = 11 →
      s.turns = first.map Turn.host ++ Turn.block :: (second.map Turn.host ++ [Turn.block]) →
        ∃ u t, run (first.length + 1) s = .next u ∧ run 13 s = .next t
          ∧ (u.trace = s.trace ∧ u.rx = [] ∧ u.phase = .idle ∧ u.errCode = .frameShort ∧ u.fcount.val = first.length
            ∧ u.pix = s.pix ∧ u.cmd = s.cmd)
          ∧ (t.trace = s.trace ∧ t.rx = [] ∧ t.phase = .idle ∧ t.errCode = .frameShort ∧ t.fcount.val = second.length
            ∧ t.pix = s.pix ∧ t.cmd = s.cmd)

/-- In `IDLE` with an empty FIFO the block waits (10_state.md R51): its turn changes nothing but the schedule. That a turn
of waiting is a step is the model's choice (log 2). -/
def Obligations.IdleWithoutInputWaits : Prop :=
  ∀ s s0 : State, BlockTurn s s0 → s0.phase = .idle → s0.rx = [] → step s = .next s0

/-- No decode outside `IDLE` (R215): a block step in any other phase leaves the FIFO and every register that only the decode
step writes (10_state.md R37: `frame`, `fcount`, `cmd`, `fl_color`, `fl_dur`) as they are, and sends no byte. -/
def Obligations.NoDecodeOutsideIdle : Prop :=
  ∀ s s0 t : State, BlockTurn s s0 → s0.phase ≠ .idle → step s = .next t →
    t.rx = s0.rx ∧ t.frame = s0.frame ∧ t.fcount = s0.fcount ∧ t.cmd = s0.cmd
      ∧ t.flColor = s0.flColor ∧ t.flDur = s0.flDur ∧ bytesSent t.trace = bytesSent s0.trace

/-- `HostSend` (10_state.md R31): in every phase the host's turn appends its byte if the FIFO has room, or loses it, and
changes nothing else. -/
def Obligations.HostSendAppendsOrLoses : Prop :=
  ∀ (s : State) (b : Byte) (rest : List Turn), s.turns = .host b :: rest →
    (s.cfg.rxDepth = none → step s = .next { s with turns := rest, rx := s.rx ++ [b] })
      ∧ ∀ d, s.cfg.rxDepth = some d →
        (s.rx.length < d → step s = .next { s with turns := rest, rx := s.rx ++ [b] })
          ∧ (d ≤ s.rx.length → step s = .next { s with turns := rest })

/-! ## The handlers -/

/-- The ALL_OFF step (41_pattern_engine.md R300, R301): all pixels `OFF`, one commit of them, IDLE, and nothing else. -/
def Obligations.AllOffStepClearsAndCommits : Prop :=
  ∀ s s0 : State, BlockTurn s s0 → s0.phase = .allOff →
    ∃ off : LedFrame, (∀ i : LedIndex, off[i.val] = ⟨0, 0, 0⟩)
      ∧ step s = .next { s0 with pix := off, trace := s0.trace ++ [.commit off], phase := .idle }

/-- Two accepted DRONE_OFF frames (R302, 20_memory.md R107): each gives `TX(0x31), COMMIT(OFF x 88)`, and the second
leaves the state the first left, but for the trace (and the model's counter, log 9). -/
def Obligations.DroneOffTwiceIsIdempotent : Prop :=
  ∀ (s : State) (f : List Byte), s.phase = .idle → s.turns = [] → f.length = 11 → decodeFrame f = .ok .droneOff →
    ∃ (t1 t2 : State) (off : LedFrame), (∀ i : LedIndex, off[i.val] = ⟨0, 0, 0⟩)
      ∧ run 2 { s with rx := f } = .next t1
      ∧ run 2 { t1 with rx := f } = .next t2
      ∧ t1.trace = s.trace ++ [.tx 0x31, .commit off] ∧ t2.trace = t1.trace ++ [.tx 0x31, .commit off]
      ∧ t1.pix = off ∧ t1.phase = .idle ∧ t1.prng = s.prng
      ∧ t2 = { t1 with trace := t2.trace, freeCount := t2.freeCount }

/-- The FLASH_SHOW step (R320 to R325): the draws in their order, each reduced modulo its number of choices; the composed
frame holds the flash color at exactly the chosen LEDs and `OFF` elsewhere; one commit of it; 13 or 15 draws are consumed;
nothing else changes. -/
def Obligations.FlashShowComposesFromTheDraws : Prop :=
  ∀ s s0 : State, BlockTurn s s0 → s0.phase = .flashShow →
    ∃ f : LedFrame,
      step s = .next { s0 with
        pix := f
        prng := prngAfter (if rawDraw s0.prng 12 % 2 = 1 then 15 else 13) s0.prng
        trace := s0.trace ++ [.commit f]
        phase := .flashWait }
      ∧ ∀ i : LedIndex, f[i.val] =
        if i ∈ (s0.cfg.topology.front[rawDraw s0.prng 0 % 4]'(Nat.mod_lt _ (by decide))).toList.take
              (rawDraw s0.prng 1 % 4 + 1)
          ∨ i ∈ (s0.cfg.topology.back[rawDraw s0.prng 2 % 4]'(Nat.mod_lt _ (by decide))).toList.take
              (rawDraw s0.prng 3 % 4 + 1)
          ∨ i ∈ (s0.cfg.topology.leftLeft[rawDraw s0.prng 4 % 3]'(Nat.mod_lt _ (by decide))).toList.take
              (rawDraw s0.prng 5 % 4 + 1)
          ∨ i ∈ (s0.cfg.topology.leftRight[rawDraw s0.prng 6 % 3]'(Nat.mod_lt _ (by decide))).toList.take
              (rawDraw s0.prng 7 % 4 + 1)
          ∨ i ∈ (s0.cfg.topology.rightLeft[rawDraw s0.prng 8 % 3]'(Nat.mod_lt _ (by decide))).toList.take
              (rawDraw s0.prng 9 % 4 + 1)
          ∨ i ∈ (s0.cfg.topology.rightRight[rawDraw s0.prng 10 % 3]'(Nat.mod_lt _ (by decide))).toList.take
              (rawDraw s0.prng 11 % 4 + 1)
          ∨ (rawDraw s0.prng 12 % 2 = 1
              ∧ (if rawDraw s0.prng 13 % 2 = 0 then s0.cfg.topBase0 else s0.cfg.topBase1).val ≤ i.val
              ∧ i.val < (if rawDraw s0.prng 13 % 2 = 0 then s0.cfg.topBase0 else s0.cfg.topBase1).val
                  + (rawDraw s0.prng 14 % 4 + 1))
        then s0.flColor else ⟨0, 0, 0⟩

/-- The number of lit LEDs of a flash (R328): with a color that is not `OFF` it is the sum of the six non-top counts and
the top count, between 6 and 28, because the zones never overlap (20_memory.md R97). -/
def Obligations.FlashLightsTheSumOfItsCounts : Prop :=
  ∀ s s0 t : State, BlockTurn s s0 → s0.phase = .flashShow → s0.flColor ≠ ⟨0, 0, 0⟩ → step s = .next t →
    t.pix.toList.count s0.flColor
        = ((List.range 6).map fun z => rawDraw s0.prng (2 * z + 1) % 4 + 1).sum
          + (if rawDraw s0.prng 12 % 2 = 1 then rawDraw s0.prng 14 % 4 + 1 else 0)
      ∧ 6 ≤ t.pix.toList.count s0.flColor ∧ t.pix.toList.count s0.flColor ≤ 28

/-- The FLASH_WAIT step (R326): the hold of `fl_dur`, all pixels `OFF`, one commit of them, IDLE, and nothing else. -/
def Obligations.FlashWaitHoldsAndClears : Prop :=
  ∀ s s0 : State, BlockTurn s s0 → s0.phase = .flashWait →
    ∃ off : LedFrame, (∀ i : LedIndex, off[i.val] = ⟨0, 0, 0⟩)
      ∧ step s = .next { s0 with
          tUs := s0.tUs + s0.flDur.toNat
          pix := off
          trace := s0.trace ++ [.hold s0.flDur.toNat, .commit off]
          phase := .idle }

/-- The observable order of an accepted NOTE frame (20_memory.md R106): whatever bytes the host sends between the decode
step, the flash and its end, the events are exactly `TX(0x31)`, the commit of the composed frame (the note's color or `OFF`
at each LED), the hold of the frame's duration, and the commit of all `OFF`; the host's bytes wait in the FIFO
(41_pattern_engine.md R327). -/
def Obligations.AcceptedNoteEventsInOrder : Prop :=
  ∀ (s : State) (idx : Byte) (dur : DurField) (v : Nat) (late later : List Byte) (hi : idx.toNat ≤ 11),
    s.phase = .idle →
      s.turns = .block :: (late.map Turn.host ++ .block :: (later.map Turn.host ++ [.block])) →
        s.rx.length = 11 → decodeFrame s.rx = .ok (.note idx dur) →
          parseDuration s.cfg.acceptEmptyDuration dur = some v →
            ∃ (t : State) (shown off : LedFrame),
              (∀ i : LedIndex, off[i.val] = ⟨0, 0, 0⟩)
                ∧ (∀ i : LedIndex, shown[i.val] = s.cfg.noteColor[idx.toNat] ∨ shown[i.val] = ⟨0, 0, 0⟩)
                ∧ run (late.length + later.length + 3) s = .next t
                ∧ t.trace = s.trace ++ [.tx 0x31, .commit shown, .hold v, .commit off]
                ∧ t.phase = .idle ∧ t.pix = off ∧ t.tUs = s.tUs + v
                ∧ (s.cfg.rxDepth = none → t.rx = late ++ later)

/-- The DRONE_ENTRY step (R340): with a byte pending it returns to IDLE and changes nothing else; otherwise it clears
`stop` and starts a pass at ASC, 0. -/
def Obligations.DroneEntryReturnsOrStarts : Prop :=
  ∀ s s0 : State, BlockTurn s s0 → s0.phase = .droneEntry →
    (s0.rx ≠ [] → step s = .next { s0 with phase := .idle })
      ∧ (s0.rx = [] → step s = .next { s0 with stop := false, dir := .asc, k := 0, phase := .droneShow })

/-- The DRONE_SHOW step (R341): every pixel is (T[k].r, 0, 0), one commit of them, DRONE_WAIT, and nothing else. -/
def Obligations.DroneShowLightsAllLeds : Prop :=
  ∀ s s0 : State, BlockTurn s s0 → s0.phase = .droneShow →
    ∃ f : LedFrame, (∀ i : LedIndex, f[i.val] = ⟨s0.table[s0.k.val].r, 0, 0⟩)
      ∧ step s = .next { s0 with pix := f, trace := s0.trace ++ [.commit f], phase := .droneWait }

/-- The DRONE_WAIT step (R342, R343): the hold of its direction, the poll that sets `stop` and consumes nothing, then up,
turn, down, or the end of the pass: IDLE if `stop` is set by then, else a new pass. -/
def Obligations.DroneWaitHoldsPollsAdvances : Prop :=
  ∀ s s0 : State, BlockTurn s s0 → s0.phase = .droneWait →
    ∃ (us : Nat) (stop : Bool),
      (s0.dir = .asc → us = s0.cfg.ascendStepUs) ∧ (s0.dir = .desc → us = s0.cfg.descendStepUs)
        ∧ (stop = true ↔ s0.stop = true ∨ s0.rx ≠ [])
        ∧ ∃ (dir : Dir) (k : Fin 100) (phase : Phase),
          step s = .next { s0 with
            tUs := s0.tUs + us, trace := s0.trace ++ [.hold us], stop := stop, dir := dir, k := k, phase := phase }
          ∧ (s0.dir = .asc → s0.k.val < 99 → dir = .asc ∧ k.val = s0.k.val + 1 ∧ phase = .droneShow)
          ∧ (s0.dir = .asc → s0.k.val = 99 → dir = .desc ∧ k.val = 99 ∧ phase = .droneShow)
          ∧ (s0.dir = .desc → 0 < s0.k.val → dir = .desc ∧ k.val = s0.k.val - 1 ∧ phase = .droneShow)
          ∧ (s0.dir = .desc → s0.k.val = 0 → stop = true → dir = .desc ∧ k.val = 0 ∧ phase = .idle)
          ∧ (s0.dir = .desc → s0.k.val = 0 → stop = false → dir = .asc ∧ k.val = 0 ∧ phase = .droneShow)

/-- One pass (R345): from DRONE_SHOW at ASC, 0 with `stop` clear and no input, 400 steps show T[0] to T[99] with the
ascending hold and T[99] to T[0] with the descending hold, and a new pass is about to start. -/
def Obligations.DronePassStructure : Prop :=
  ∀ s : State, s.phase = .droneShow → s.dir = .asc → s.k = 0 → s.stop = false → s.rx = [] → s.turns = [] →
    ∃ t : State, run 400 s = .next t
      ∧ t = { s with pix := t.pix, tUs := t.tUs, trace := t.trace }
      ∧ t.tUs = s.tUs + 100 * s.cfg.ascendStepUs + 100 * s.cfg.descendStepUs
      ∧ t.trace = s.trace
        ++ (List.finRange 100).flatMap (fun k =>
            [.commit (Vector.replicate 88 ⟨s.table[k.val].r, 0, 0⟩), .hold s.cfg.ascendStepUs])
        ++ (List.finRange 100).reverse.flatMap (fun k =>
            [.commit (Vector.replicate 88 ⟨s.table[k.val].r, 0, 0⟩), .hold s.cfg.descendStepUs])

/-- Without input the drone never returns (R346): from DRONE_ENTRY, or from any point of a pass with `stop` clear, with an
empty FIFO and only the block to move, every number of steps ends in such a state again. -/
def Obligations.DroneRepeatsWithoutInput : Prop :=
  ∀ (s : State) (m : Nat), DroneUndisturbed s → ∃ t, run m s = .next t ∧ DroneUndisturbed t

/-- With input pending the pass is not aborted and the drone returns at its end (R343, R344, R347): from DRONE_SHOW the
number of steps to IDLE is that of the rest of the pass, no phase before is IDLE, and the pending bytes stay. -/
def Obligations.DroneReturnsAtTheEndOfThePass : Prop :=
  ∀ (s : State) (steps : Nat), s.phase = .droneShow → s.rx ≠ [] → s.turns = [] →
    (s.dir = .desc → steps = 2 * (s.k.val + 1)) → (s.dir = .asc → steps = 2 * (100 - s.k.val) + 200) →
      (∃ t, run steps s = .next t ∧ t.phase = .idle ∧ t.rx = s.rx ∧ t.dir = .desc
          ∧ t.k.val = 0 ∧ t.stop = true)
        ∧ ∀ m, m < steps → ∃ t, run m s = .next t
          ∧ (t.phase = .droneShow ∨ t.phase = .droneWait)

/-! ## Startup, halt and reset -/

/-- The `INIT` step (70_reset_and_hazards.md R601, 42_curve_generator.md R411): with `alloc_ok` and a capacity of at
least 100 it builds the drone table and goes to IDLE, with no event; otherwise it halts with ALLOC_FAIL, with no event. The
premise on the control word is what reset leaves there (log 11). -/
def Obligations.InitStepBuildsTheDroneTableOrHalts : Prop :=
  ∀ s s0 : State, BlockTurn s s0 → s0.phase = .init → s0.genWord = startupWord s0.cfg →
    (s0.cfg.allocOk = true → 100 ≤ s0.cfg.tableCapacity →
        ∃ (t : DroneTable) (g : List Color), DroneTableBuilt s0.cfg t
          ∧ step s = .next { s0 with table := t, genOut := g, phase := .idle })
      ∧ ((s0.cfg.allocOk = false ∨ s0.cfg.tableCapacity < 100) →
        step s = .next { s0 with errCode := .allocFail, phase := .halted })

/-- A block step ends in a fault exactly in `HALTED`, and no step is refused (60_exceptions.md R510, R511; log 14). -/
def Obligations.OnlyAHaltedBlockStops : Prop :=
  ∀ s : State, (∀ r, step s ≠ .refused r)
    ∧ ∀ f, step s = .fault f ↔ ∃ s0, BlockTurn s s0 ∧ s0.phase = .halted

/-- `HALTED` is permanent and silent (60_exceptions.md R510, 70_reset_and_hazards.md R604): a step that answers a next
state there is the host's, and it changes only the FIFO and the schedule. -/
def Obligations.HaltedOnlyTakesHostBytes : Prop :=
  ∀ s t : State, s.phase = .halted → step s = .next t →
    t = { s with rx := t.rx, turns := t.turns } ∧ ∃ b rest, s.turns = .host b :: rest ∧ t.turns = rest

/-- Reset (70_reset_and_hazards.md R600, R602, 10_state.md R37): the values the spec states, for every configuration and
every seed. -/
def Obligations.ResetLeavesTheStatedValues : Prop :=
  ∀ (c : Config) (seed : PrngState), ∃ s, s = State.resetWith c seed ∧ s.rx = [] ∧ s.fcount.val = 0
    ∧ s.cmd.kind = .none ∧ s.cmd.note = 0 ∧ s.cmd.dur = 0 ∧ s.errCode = .none ∧ s.phase = .init ∧ s.dir = .asc
    ∧ s.k.val = 0 ∧ s.stop = false ∧ s.flColor = ⟨0, 0, 0⟩ ∧ s.flDur = 0 ∧ s.prng = seed ∧ s.tUs = 0
    ∧ (∀ i : LedIndex, s.pix[i.val] = ⟨0, 0, 0⟩) ∧ s.cfg = c ∧ s.cfg.noteColor[0] = ⟨255, 0, 0⟩

/-- The configuration check (00_scope.md R12, 20_memory.md R97): the non-top indices are each of 0..79 exactly once, the
top quadruples each of 80..87 exactly once, note 0 is (255, 0, 0), and the FIFO holds at least a frame. R12's condition on
`TABLE_CAPACITY` is no clause of the check: that every capacity is well formed, because `alloc_ok` is allowed to be false, is
the model's reading of R12 (DEDUCED, log 18). -/
def Obligations.ConfigurationCheckIsThePartition : Prop :=
  ∀ c : RawConfig, c.wf = true ↔
    (∀ q ∈ c.topology.quads, [q.p0, q.p1, q.p2, q.p3].Nodup)
      ∧ c.topology.sideIndices.Nodup ∧ (∀ i, i ∈ c.topology.sideIndices ↔ i < 80)
      ∧ (∀ i, 80 ≤ i → i < 88 → (c.topBase0.val ≤ i ∧ i < c.topBase0.val + 4) ∨ (c.topBase1.val ≤ i ∧ i < c.topBase1.val + 4))
      ∧ 80 ≤ c.topBase0.val ∧ 80 ≤ c.topBase1.val
      ∧ c.noteColor[0] = ⟨255, 0, 0⟩ ∧ ∀ d, c.rxDepth = some d → 11 ≤ d

/-- A boot with well-formed parameters is the reset state, and one with ill-formed parameters is refused (00_scope.md
R12). -/
def Obligations.BootRefusesIllFormedConfigurations : Prop :=
  ∀ (raw : RawConfig) (seed : PrngState),
    (raw.wf = false → State.boot raw seed = .refused .illFormedConfiguration)
      ∧ (∀ h : raw.wf = true, State.boot raw seed = .next (State.resetWith ⟨raw, h⟩ seed))

/-! ## Whole-machine rules -/

/-- Every step keeps the invariant: `RX_DEPTH`, the latch's ranges, the clock as the total of the holds, only
acknowledgments sent, the table built after startup, pixels `OFF` outside the lit phases, the halt's cause. -/
def Obligations.StepKeepsTheInvariant : Prop :=
  ∀ s t : State, Inv s → step s = .next t → Inv t

/-- The invariant holds after reset, for every configuration and every seed. -/
def Obligations.ResetMeetsTheInvariant : Prop :=
  (∀ (c : Config) (seed : PrngState), Inv (State.resetWith c seed)) ∧ Inv State.reset

/-- Whenever the phase is IDLE after startup, every pixel is `OFF` (10_state.md R52): in every run from reset, for every
configuration, seed and interleaving with the host. -/
def Obligations.IdlePixelsAreOff : Prop :=
  ∀ (c : Config) (seed : PrngState) (ts : List Turn) (m : Nat) (t : State),
    run m { State.resetWith c seed with turns := ts } = .next t → t.phase = .idle →
      ∀ i : LedIndex, t.pix[i.val] = ⟨0, 0, 0⟩

/-- The sequencer's transitions (10_state.md R50, R51): the phase changes only along the rules' arrows, and never from
HALTED. -/
def Obligations.PhaseTransitionsAreTheRules : Prop :=
  ∀ s t : State, step s = .next t → t.phase = s.phase
    ∨ (s.phase = .init ∧ (t.phase = .idle ∨ t.phase = .halted))
    ∨ (s.phase = .idle ∧ (t.phase = .allOff ∨ t.phase = .droneEntry ∨ t.phase = .flashShow))
    ∨ (s.phase = .allOff ∧ t.phase = .idle)
    ∨ (s.phase = .droneEntry ∧ (t.phase = .idle ∨ t.phase = .droneShow))
    ∨ (s.phase = .droneShow ∧ t.phase = .droneWait)
    ∨ (s.phase = .droneWait ∧ (t.phase = .idle ∨ t.phase = .droneShow))
    ∨ (s.phase = .flashShow ∧ t.phase = .flashWait)
    ∨ (s.phase = .flashWait ∧ t.phase = .idle)

/-- Nothing rewrites the constants (10_state.md R42, R45, 20_memory.md R112): no step changes the configuration, and only
the `INIT` step changes `T`. That the generator's control word is a field of the state, which no step changes either, is the
model's choice (log 11). -/
def Obligations.TablesAndConfigurationAreNeverRewritten : Prop :=
  ∀ s t : State, step s = .next t →
    t.cfg = s.cfg ∧ t.genWord = s.genWord ∧ (s.phase ≠ .init → t.table = s.table)

/-- Only FLASH_SHOW draws (10_state.md R43, 70_reset_and_hazards.md R602): any other step leaves the stream's state. -/
def Obligations.OnlyFlashShowDraws : Prop :=
  ∀ s t : State, step s = .next t → s.phase ≠ .flashShow → t.prng = s.prng

/-- The trace only grows, and the clock advances by the holds a step adds (10_state.md R44, 70_reset_and_hazards.md R631:
only `Hold` changes it). -/
def Obligations.ClockAdvancesByTheHolds : Prop :=
  ∀ s t : State, step s = .next t →
    ∃ new : List Event, t.trace = s.trace ++ new ∧ t.tUs = s.tUs + heldTime new

/-- Each visual frame is committed once (20_memory.md R93, 70_reset_and_hazards.md R625, 10_state.md R41): a step commits
at most once, what it commits is the pixel buffer it leaves, and a step that changes a pixel commits; the physical LEDs then
show that commit, and otherwise what they showed (10_state.md R33). -/
def Obligations.PixelChangesAreCommittedOnce : Prop :=
  ∀ s t : State, step s = .next t → ∃ new : List Event, t.trace = s.trace ++ new
    ∧ ((commitsOf new = [] ∧ t.pix = s.pix ∧ physicalLeds t = physicalLeds s)
      ∨ (commitsOf new = [t.pix] ∧ physicalLeds t = t.pix))

/-- Bytes are sent only by a decode step, and only the acknowledgment (10_state.md R32, 40_frame_decoder.md R217): a step
that sends is in IDLE, sends 0x31 once and adds nothing else. -/
def Obligations.OnlyDecodeStepsSend : Prop :=
  ∀ s t : State, step s = .next t → bytesSent t.trace ≠ bytesSent s.trace →
    s.phase = .idle ∧ t.trace = s.trace ++ [.tx 0x31]

/-- What is not observable has no influence (00_scope.md R17, 10_state.md R38, R39, 60_exceptions.md R501): two states
that differ at most in the frame buffer, `fcount`, the command latch, `err_code`, the generator's last result and the
model's counter take steps to states that differ at most there, with the same trace. -/
def Obligations.UnobservableStateHasNoInfluence : Prop :=
  ∀ s t s' : State, ObsEq s t → step s = .next s' → ∃ t', step t = .next t' ∧ ObsEq s' t'

/-- An instruction placed with `withFetchWord` is the one the next step runs (log 3, log 12): for every instruction, in
the opcode table's numbering. -/
def Obligations.PlacedWordIsRunNext : Prop :=
  ∀ (s : State) (i : Instr), ∃ s1 : State,
    step (s.withFetchWord (encodeTableWord i).1 (encodeTableWord i).2) = retireOutcome (exec i s1)
      ∧ s1.cfg = s.cfg ∧ s1.turns = s.turns ∧ s1.trace = s.trace ∧ s1.pix = s.pix ∧ s1.prng = s.prng

/-- The codes of phases and errors (10_state.md R50, 60_exceptions.md R501, R500): the nine phase codes 0..8 and the
reserved codes 9..15, which are refused; the eight error codes 0..7 and the class of each. That the state holds names, with
these functions for their codes, is the model's choice (log 19). -/
def Obligations.PhaseAndErrorCodes : Prop :=
  (Phase.init.code = 0 ∧ Phase.idle.code = 1 ∧ Phase.allOff.code = 2 ∧ Phase.droneEntry.code = 3
      ∧ Phase.droneShow.code = 4 ∧ Phase.droneWait.code = 5 ∧ Phase.flashShow.code = 6 ∧ Phase.flashWait.code = 7
      ∧ Phase.halted.code = 8)
    ∧ (∀ p : Phase, phaseOfCode p.code = some p) ∧ (∀ v : BitVec 4, 9 ≤ v.toNat → phaseOfCode v = none)
    ∧ (ErrCode.none.code = 0 ∧ ErrCode.frameShort.code = 1 ∧ ErrCode.frameStart.code = 2 ∧ ErrCode.frameEnd.code = 3
      ∧ ErrCode.frameCmd.code = 4 ∧ ErrCode.noteIndex.code = 5 ∧ ErrCode.durationParse.code = 6
      ∧ ErrCode.allocFail.code = 7)
    ∧ (errorClass .none = none ∧ errorClass .frameShort = some .frameError ∧ errorClass .frameStart = some .frameError
      ∧ errorClass .frameEnd = some .frameError ∧ errorClass .frameCmd = some .frameError
      ∧ errorClass .noteIndex = some .noteIndexError ∧ errorClass .durationParse = some .durationParseError
      ∧ errorClass .allocFail = some .allocationFailure)

/-- A drone without input goes on (41_pattern_engine.md R346), as an invariant: every step of a state in which the drone runs
undisturbed answers a next state, and the drone runs undisturbed there; after DRONE_ENTRY it is in a pass, and it never
leaves the pass. -/
def Obligations.UndisturbedDroneGoesOn : Prop :=
  ∀ s : State, DroneUndisturbed s →
    (∃ t, step s = .next t)
      ∧ ∀ t, step s = .next t → DroneUndisturbed t ∧ (t.phase = .droneShow ∨ t.phase = .droneWait)
end

