-- ==== Sys2Proof/Laws/State.lean ====
section
/-! SUPPORT. What each update of the state leaves in each field: one lemma per field per update, true by rfl, so that no
proof unfolds a record update. -/

namespace Sys2Proof.Machine

open Sys2Proof

/-! ## rxFlush -/

@[simp] theorem rxFlush_rx (s : State) : (rxFlush s).rx = [] := rfl
@[simp] theorem rxFlush_frame (s : State) : (rxFlush s).frame = s.frame := rfl
@[simp] theorem rxFlush_fcount (s : State) : (rxFlush s).fcount = s.fcount := rfl
@[simp] theorem rxFlush_cmd (s : State) : (rxFlush s).cmd = s.cmd := rfl
@[simp] theorem rxFlush_errCode (s : State) : (rxFlush s).errCode = s.errCode := rfl
@[simp] theorem rxFlush_phase (s : State) : (rxFlush s).phase = s.phase := rfl
@[simp] theorem rxFlush_dir (s : State) : (rxFlush s).dir = s.dir := rfl
@[simp] theorem rxFlush_k (s : State) : (rxFlush s).k = s.k := rfl
@[simp] theorem rxFlush_stop (s : State) : (rxFlush s).stop = s.stop := rfl
@[simp] theorem rxFlush_flColor (s : State) : (rxFlush s).flColor = s.flColor := rfl
@[simp] theorem rxFlush_flDur (s : State) : (rxFlush s).flDur = s.flDur := rfl
@[simp] theorem rxFlush_prng (s : State) : (rxFlush s).prng = s.prng := rfl
@[simp] theorem rxFlush_tUs (s : State) : (rxFlush s).tUs = s.tUs := rfl
@[simp] theorem rxFlush_pix (s : State) : (rxFlush s).pix = s.pix := rfl
@[simp] theorem rxFlush_table (s : State) : (rxFlush s).table = s.table := rfl
@[simp] theorem rxFlush_cfg (s : State) : (rxFlush s).cfg = s.cfg := rfl
@[simp] theorem rxFlush_genWord (s : State) : (rxFlush s).genWord = s.genWord := rfl
@[simp] theorem rxFlush_genOut (s : State) : (rxFlush s).genOut = s.genOut := rfl
@[simp] theorem rxFlush_trace (s : State) : (rxFlush s).trace = s.trace := rfl
@[simp] theorem rxFlush_turns (s : State) : (rxFlush s).turns = s.turns := rfl
@[simp] theorem rxFlush_freeCount (s : State) : (rxFlush s).freeCount = s.freeCount := rfl

/-! ## txWrite -/

@[simp] theorem txWrite_rx (b : Byte) (s : State) : (txWrite b s).rx = s.rx := rfl
@[simp] theorem txWrite_frame (b : Byte) (s : State) : (txWrite b s).frame = s.frame := rfl
@[simp] theorem txWrite_fcount (b : Byte) (s : State) : (txWrite b s).fcount = s.fcount := rfl
@[simp] theorem txWrite_cmd (b : Byte) (s : State) : (txWrite b s).cmd = s.cmd := rfl
@[simp] theorem txWrite_errCode (b : Byte) (s : State) : (txWrite b s).errCode = s.errCode := rfl
@[simp] theorem txWrite_phase (b : Byte) (s : State) : (txWrite b s).phase = s.phase := rfl
@[simp] theorem txWrite_dir (b : Byte) (s : State) : (txWrite b s).dir = s.dir := rfl
@[simp] theorem txWrite_k (b : Byte) (s : State) : (txWrite b s).k = s.k := rfl
@[simp] theorem txWrite_stop (b : Byte) (s : State) : (txWrite b s).stop = s.stop := rfl
@[simp] theorem txWrite_flColor (b : Byte) (s : State) : (txWrite b s).flColor = s.flColor := rfl
@[simp] theorem txWrite_flDur (b : Byte) (s : State) : (txWrite b s).flDur = s.flDur := rfl
@[simp] theorem txWrite_prng (b : Byte) (s : State) : (txWrite b s).prng = s.prng := rfl
@[simp] theorem txWrite_tUs (b : Byte) (s : State) : (txWrite b s).tUs = s.tUs := rfl
@[simp] theorem txWrite_pix (b : Byte) (s : State) : (txWrite b s).pix = s.pix := rfl
@[simp] theorem txWrite_table (b : Byte) (s : State) : (txWrite b s).table = s.table := rfl
@[simp] theorem txWrite_cfg (b : Byte) (s : State) : (txWrite b s).cfg = s.cfg := rfl
@[simp] theorem txWrite_genWord (b : Byte) (s : State) : (txWrite b s).genWord = s.genWord := rfl
@[simp] theorem txWrite_genOut (b : Byte) (s : State) : (txWrite b s).genOut = s.genOut := rfl
@[simp] theorem txWrite_trace (b : Byte) (s : State) : (txWrite b s).trace = s.trace ++ [.tx b] := rfl
@[simp] theorem txWrite_turns (b : Byte) (s : State) : (txWrite b s).turns = s.turns := rfl
@[simp] theorem txWrite_freeCount (b : Byte) (s : State) : (txWrite b s).freeCount = s.freeCount := rfl

/-! ## commit -/

@[simp] theorem commit_rx (s : State) : (commit s).rx = s.rx := rfl
@[simp] theorem commit_frame (s : State) : (commit s).frame = s.frame := rfl
@[simp] theorem commit_fcount (s : State) : (commit s).fcount = s.fcount := rfl
@[simp] theorem commit_cmd (s : State) : (commit s).cmd = s.cmd := rfl
@[simp] theorem commit_errCode (s : State) : (commit s).errCode = s.errCode := rfl
@[simp] theorem commit_phase (s : State) : (commit s).phase = s.phase := rfl
@[simp] theorem commit_dir (s : State) : (commit s).dir = s.dir := rfl
@[simp] theorem commit_k (s : State) : (commit s).k = s.k := rfl
@[simp] theorem commit_stop (s : State) : (commit s).stop = s.stop := rfl
@[simp] theorem commit_flColor (s : State) : (commit s).flColor = s.flColor := rfl
@[simp] theorem commit_flDur (s : State) : (commit s).flDur = s.flDur := rfl
@[simp] theorem commit_prng (s : State) : (commit s).prng = s.prng := rfl
@[simp] theorem commit_tUs (s : State) : (commit s).tUs = s.tUs := rfl
@[simp] theorem commit_pix (s : State) : (commit s).pix = s.pix := rfl
@[simp] theorem commit_table (s : State) : (commit s).table = s.table := rfl
@[simp] theorem commit_cfg (s : State) : (commit s).cfg = s.cfg := rfl
@[simp] theorem commit_genWord (s : State) : (commit s).genWord = s.genWord := rfl
@[simp] theorem commit_genOut (s : State) : (commit s).genOut = s.genOut := rfl
@[simp] theorem commit_trace (s : State) : (commit s).trace = s.trace ++ [.commit s.pix] := rfl
@[simp] theorem commit_turns (s : State) : (commit s).turns = s.turns := rfl
@[simp] theorem commit_freeCount (s : State) : (commit s).freeCount = s.freeCount := rfl

/-! ## hold -/

@[simp] theorem hold_rx (us : Nat) (s : State) : (hold us s).rx = s.rx := rfl
@[simp] theorem hold_frame (us : Nat) (s : State) : (hold us s).frame = s.frame := rfl
@[simp] theorem hold_fcount (us : Nat) (s : State) : (hold us s).fcount = s.fcount := rfl
@[simp] theorem hold_cmd (us : Nat) (s : State) : (hold us s).cmd = s.cmd := rfl
@[simp] theorem hold_errCode (us : Nat) (s : State) : (hold us s).errCode = s.errCode := rfl
@[simp] theorem hold_phase (us : Nat) (s : State) : (hold us s).phase = s.phase := rfl
@[simp] theorem hold_dir (us : Nat) (s : State) : (hold us s).dir = s.dir := rfl
@[simp] theorem hold_k (us : Nat) (s : State) : (hold us s).k = s.k := rfl
@[simp] theorem hold_stop (us : Nat) (s : State) : (hold us s).stop = s.stop := rfl
@[simp] theorem hold_flColor (us : Nat) (s : State) : (hold us s).flColor = s.flColor := rfl
@[simp] theorem hold_flDur (us : Nat) (s : State) : (hold us s).flDur = s.flDur := rfl
@[simp] theorem hold_prng (us : Nat) (s : State) : (hold us s).prng = s.prng := rfl
@[simp] theorem hold_tUs (us : Nat) (s : State) : (hold us s).tUs = s.tUs + us := rfl
@[simp] theorem hold_pix (us : Nat) (s : State) : (hold us s).pix = s.pix := rfl
@[simp] theorem hold_table (us : Nat) (s : State) : (hold us s).table = s.table := rfl
@[simp] theorem hold_cfg (us : Nat) (s : State) : (hold us s).cfg = s.cfg := rfl
@[simp] theorem hold_genWord (us : Nat) (s : State) : (hold us s).genWord = s.genWord := rfl
@[simp] theorem hold_genOut (us : Nat) (s : State) : (hold us s).genOut = s.genOut := rfl
@[simp] theorem hold_trace (us : Nat) (s : State) : (hold us s).trace = s.trace ++ [.hold us] := rfl
@[simp] theorem hold_turns (us : Nat) (s : State) : (hold us s).turns = s.turns := rfl
@[simp] theorem hold_freeCount (us : Nat) (s : State) : (hold us s).freeCount = s.freeCount := rfl

/-! ## clearPixels -/

@[simp] theorem clearPixels_rx (s : State) : (clearPixels s).rx = s.rx := rfl
@[simp] theorem clearPixels_frame (s : State) : (clearPixels s).frame = s.frame := rfl
@[simp] theorem clearPixels_fcount (s : State) : (clearPixels s).fcount = s.fcount := rfl
@[simp] theorem clearPixels_cmd (s : State) : (clearPixels s).cmd = s.cmd := rfl
@[simp] theorem clearPixels_errCode (s : State) : (clearPixels s).errCode = s.errCode := rfl
@[simp] theorem clearPixels_phase (s : State) : (clearPixels s).phase = s.phase := rfl
@[simp] theorem clearPixels_dir (s : State) : (clearPixels s).dir = s.dir := rfl
@[simp] theorem clearPixels_k (s : State) : (clearPixels s).k = s.k := rfl
@[simp] theorem clearPixels_stop (s : State) : (clearPixels s).stop = s.stop := rfl
@[simp] theorem clearPixels_flColor (s : State) : (clearPixels s).flColor = s.flColor := rfl
@[simp] theorem clearPixels_flDur (s : State) : (clearPixels s).flDur = s.flDur := rfl
@[simp] theorem clearPixels_prng (s : State) : (clearPixels s).prng = s.prng := rfl
@[simp] theorem clearPixels_tUs (s : State) : (clearPixels s).tUs = s.tUs := rfl
@[simp] theorem clearPixels_pix (s : State) : (clearPixels s).pix = uniformPixels Color.off := rfl
@[simp] theorem clearPixels_table (s : State) : (clearPixels s).table = s.table := rfl
@[simp] theorem clearPixels_cfg (s : State) : (clearPixels s).cfg = s.cfg := rfl
@[simp] theorem clearPixels_genWord (s : State) : (clearPixels s).genWord = s.genWord := rfl
@[simp] theorem clearPixels_genOut (s : State) : (clearPixels s).genOut = s.genOut := rfl
@[simp] theorem clearPixels_trace (s : State) : (clearPixels s).trace = s.trace := rfl
@[simp] theorem clearPixels_turns (s : State) : (clearPixels s).turns = s.turns := rfl
@[simp] theorem clearPixels_freeCount (s : State) : (clearPixels s).freeCount = s.freeCount := rfl

/-! ## raise -/

@[simp] theorem raise_rx (e : ErrCode) (s : State) : (raise e s).rx = s.rx := rfl
@[simp] theorem raise_frame (e : ErrCode) (s : State) : (raise e s).frame = s.frame := rfl
@[simp] theorem raise_fcount (e : ErrCode) (s : State) : (raise e s).fcount = s.fcount := rfl
@[simp] theorem raise_cmd (e : ErrCode) (s : State) : (raise e s).cmd = s.cmd := rfl
@[simp] theorem raise_errCode (e : ErrCode) (s : State) : (raise e s).errCode = e := rfl
@[simp] theorem raise_phase (e : ErrCode) (s : State) : (raise e s).phase = if e = .allocFail then .halted else .idle := rfl
@[simp] theorem raise_dir (e : ErrCode) (s : State) : (raise e s).dir = s.dir := rfl
@[simp] theorem raise_k (e : ErrCode) (s : State) : (raise e s).k = s.k := rfl
@[simp] theorem raise_stop (e : ErrCode) (s : State) : (raise e s).stop = s.stop := rfl
@[simp] theorem raise_flColor (e : ErrCode) (s : State) : (raise e s).flColor = s.flColor := rfl
@[simp] theorem raise_flDur (e : ErrCode) (s : State) : (raise e s).flDur = s.flDur := rfl
@[simp] theorem raise_prng (e : ErrCode) (s : State) : (raise e s).prng = s.prng := rfl
@[simp] theorem raise_tUs (e : ErrCode) (s : State) : (raise e s).tUs = s.tUs := rfl
@[simp] theorem raise_pix (e : ErrCode) (s : State) : (raise e s).pix = s.pix := rfl
@[simp] theorem raise_table (e : ErrCode) (s : State) : (raise e s).table = s.table := rfl
@[simp] theorem raise_cfg (e : ErrCode) (s : State) : (raise e s).cfg = s.cfg := rfl
@[simp] theorem raise_genWord (e : ErrCode) (s : State) : (raise e s).genWord = s.genWord := rfl
@[simp] theorem raise_genOut (e : ErrCode) (s : State) : (raise e s).genOut = s.genOut := rfl
@[simp] theorem raise_trace (e : ErrCode) (s : State) : (raise e s).trace = s.trace := rfl
@[simp] theorem raise_turns (e : ErrCode) (s : State) : (raise e s).turns = s.turns := rfl
@[simp] theorem raise_freeCount (e : ErrCode) (s : State) : (raise e s).freeCount = s.freeCount := rfl

/-! ## accept -/

@[simp] theorem accept_rx (p : Phase) (s : State) : (accept p s).rx = s.rx := rfl
@[simp] theorem accept_frame (p : Phase) (s : State) : (accept p s).frame = s.frame := rfl
@[simp] theorem accept_fcount (p : Phase) (s : State) : (accept p s).fcount = s.fcount := rfl
@[simp] theorem accept_cmd (p : Phase) (s : State) : (accept p s).cmd = s.cmd := rfl
@[simp] theorem accept_errCode (p : Phase) (s : State) : (accept p s).errCode = .none := rfl
@[simp] theorem accept_phase (p : Phase) (s : State) : (accept p s).phase = p := rfl
@[simp] theorem accept_dir (p : Phase) (s : State) : (accept p s).dir = s.dir := rfl
@[simp] theorem accept_k (p : Phase) (s : State) : (accept p s).k = s.k := rfl
@[simp] theorem accept_stop (p : Phase) (s : State) : (accept p s).stop = s.stop := rfl
@[simp] theorem accept_flColor (p : Phase) (s : State) : (accept p s).flColor = s.flColor := rfl
@[simp] theorem accept_flDur (p : Phase) (s : State) : (accept p s).flDur = s.flDur := rfl
@[simp] theorem accept_prng (p : Phase) (s : State) : (accept p s).prng = s.prng := rfl
@[simp] theorem accept_tUs (p : Phase) (s : State) : (accept p s).tUs = s.tUs := rfl
@[simp] theorem accept_pix (p : Phase) (s : State) : (accept p s).pix = s.pix := rfl
@[simp] theorem accept_table (p : Phase) (s : State) : (accept p s).table = s.table := rfl
@[simp] theorem accept_cfg (p : Phase) (s : State) : (accept p s).cfg = s.cfg := rfl
@[simp] theorem accept_genWord (p : Phase) (s : State) : (accept p s).genWord = s.genWord := rfl
@[simp] theorem accept_genOut (p : Phase) (s : State) : (accept p s).genOut = s.genOut := rfl
@[simp] theorem accept_trace (p : Phase) (s : State) : (accept p s).trace = s.trace ++ [.tx ackByte] := rfl
@[simp] theorem accept_turns (p : Phase) (s : State) : (accept p s).turns = s.turns := rfl
@[simp] theorem accept_freeCount (p : Phase) (s : State) : (accept p s).freeCount = s.freeCount := rfl

/-! ## latchKind -/

@[simp] theorem latchKind_rx (c : CmdKind) (s : State) : (latchKind c s).rx = s.rx := rfl
@[simp] theorem latchKind_frame (c : CmdKind) (s : State) : (latchKind c s).frame = s.frame := rfl
@[simp] theorem latchKind_fcount (c : CmdKind) (s : State) : (latchKind c s).fcount = s.fcount := rfl
@[simp] theorem latchKind_cmd (c : CmdKind) (s : State) : (latchKind c s).cmd = { s.cmd with kind := c } := rfl
@[simp] theorem latchKind_errCode (c : CmdKind) (s : State) : (latchKind c s).errCode = s.errCode := rfl
@[simp] theorem latchKind_phase (c : CmdKind) (s : State) : (latchKind c s).phase = s.phase := rfl
@[simp] theorem latchKind_dir (c : CmdKind) (s : State) : (latchKind c s).dir = s.dir := rfl
@[simp] theorem latchKind_k (c : CmdKind) (s : State) : (latchKind c s).k = s.k := rfl
@[simp] theorem latchKind_stop (c : CmdKind) (s : State) : (latchKind c s).stop = s.stop := rfl
@[simp] theorem latchKind_flColor (c : CmdKind) (s : State) : (latchKind c s).flColor = s.flColor := rfl
@[simp] theorem latchKind_flDur (c : CmdKind) (s : State) : (latchKind c s).flDur = s.flDur := rfl
@[simp] theorem latchKind_prng (c : CmdKind) (s : State) : (latchKind c s).prng = s.prng := rfl
@[simp] theorem latchKind_tUs (c : CmdKind) (s : State) : (latchKind c s).tUs = s.tUs := rfl
@[simp] theorem latchKind_pix (c : CmdKind) (s : State) : (latchKind c s).pix = s.pix := rfl
@[simp] theorem latchKind_table (c : CmdKind) (s : State) : (latchKind c s).table = s.table := rfl
@[simp] theorem latchKind_cfg (c : CmdKind) (s : State) : (latchKind c s).cfg = s.cfg := rfl
@[simp] theorem latchKind_genWord (c : CmdKind) (s : State) : (latchKind c s).genWord = s.genWord := rfl
@[simp] theorem latchKind_genOut (c : CmdKind) (s : State) : (latchKind c s).genOut = s.genOut := rfl
@[simp] theorem latchKind_trace (c : CmdKind) (s : State) : (latchKind c s).trace = s.trace := rfl
@[simp] theorem latchKind_turns (c : CmdKind) (s : State) : (latchKind c s).turns = s.turns := rfl
@[simp] theorem latchKind_freeCount (c : CmdKind) (s : State) : (latchKind c s).freeCount = s.freeCount := rfl

/-! ## latchNote -/

@[simp] theorem latchNote_rx (i : Fin 12) (v : Nat) (s : State) : (latchNote i v s).rx = s.rx := rfl
@[simp] theorem latchNote_frame (i : Fin 12) (v : Nat) (s : State) : (latchNote i v s).frame = s.frame := rfl
@[simp] theorem latchNote_fcount (i : Fin 12) (v : Nat) (s : State) : (latchNote i v s).fcount = s.fcount := rfl
@[simp] theorem latchNote_cmd (i : Fin 12) (v : Nat) (s : State) : (latchNote i v s).cmd = ⟨.note, BitVec.ofNat 4 i.val, BitVec.ofNat 32 v⟩ := rfl
@[simp] theorem latchNote_errCode (i : Fin 12) (v : Nat) (s : State) : (latchNote i v s).errCode = s.errCode := rfl
@[simp] theorem latchNote_phase (i : Fin 12) (v : Nat) (s : State) : (latchNote i v s).phase = s.phase := rfl
@[simp] theorem latchNote_dir (i : Fin 12) (v : Nat) (s : State) : (latchNote i v s).dir = s.dir := rfl
@[simp] theorem latchNote_k (i : Fin 12) (v : Nat) (s : State) : (latchNote i v s).k = s.k := rfl
@[simp] theorem latchNote_stop (i : Fin 12) (v : Nat) (s : State) : (latchNote i v s).stop = s.stop := rfl
@[simp] theorem latchNote_flColor (i : Fin 12) (v : Nat) (s : State) : (latchNote i v s).flColor = noteColor s.cfg i := rfl
@[simp] theorem latchNote_flDur (i : Fin 12) (v : Nat) (s : State) : (latchNote i v s).flDur = BitVec.ofNat 32 v := rfl
@[simp] theorem latchNote_prng (i : Fin 12) (v : Nat) (s : State) : (latchNote i v s).prng = s.prng := rfl
@[simp] theorem latchNote_tUs (i : Fin 12) (v : Nat) (s : State) : (latchNote i v s).tUs = s.tUs := rfl
@[simp] theorem latchNote_pix (i : Fin 12) (v : Nat) (s : State) : (latchNote i v s).pix = s.pix := rfl
@[simp] theorem latchNote_table (i : Fin 12) (v : Nat) (s : State) : (latchNote i v s).table = s.table := rfl
@[simp] theorem latchNote_cfg (i : Fin 12) (v : Nat) (s : State) : (latchNote i v s).cfg = s.cfg := rfl
@[simp] theorem latchNote_genWord (i : Fin 12) (v : Nat) (s : State) : (latchNote i v s).genWord = s.genWord := rfl
@[simp] theorem latchNote_genOut (i : Fin 12) (v : Nat) (s : State) : (latchNote i v s).genOut = s.genOut := rfl
@[simp] theorem latchNote_trace (i : Fin 12) (v : Nat) (s : State) : (latchNote i v s).trace = s.trace := rfl
@[simp] theorem latchNote_turns (i : Fin 12) (v : Nat) (s : State) : (latchNote i v s).turns = s.turns := rfl
@[simp] theorem latchNote_freeCount (i : Fin 12) (v : Nat) (s : State) : (latchNote i v s).freeCount = s.freeCount := rfl

end Sys2Proof.Machine
end

