-- ==== Sys2Proof/Laws/Ops.lean ====
section
/-! SUPPORT. For each shared operation one lemma that says once everything it can do; the provers cite these instead of
unfolding the operation. -/

namespace Sys2Proof.Machine

open Sys2Proof

/-! ## The FIFO and the read of a decode step -/

/-- n pops return the first n bytes of the FIFO and leave the rest. -/
theorem popBytes_eq (n : Nat) (s : State) : popBytes n s = (s.rx.take n, { s with rx := s.rx.drop n }) := by
  induction n generalizing s with
  | zero => simp [popBytes]
  | succ n ih =>
    cases h : s.rx with
    | nil =>
      have hs : s = { s with rx := [] } := by rw [← h]
      simp [popBytes, rxPop, h]
      exact hs
    | cons b rest => simp [popBytes, rxPop, h, ih]

/-- The read of a decode step, in full (40_frame_decoder.md R201, R202). -/
theorem readFrame_eq (s : State) :
    readFrame s = { s with
      rx := []
      fcount := ⟨min s.rx.length 11, by omega⟩
      frame := frameBuffer (s.rx.take (min s.rx.length 11)) s.freeCount
      freeCount := s.freeCount + 1 } := by
  simp [readFrame, popBytes_eq, rxFlush, rxCount]

@[simp] theorem readFrame_rx (s : State) : (readFrame s).rx = [] := by simp [readFrame_eq]
@[simp] theorem readFrame_fcount (s : State) : ((readFrame s).fcount).val = min s.rx.length 11 := by
  simp [readFrame_eq]
@[simp] theorem readFrame_cmd (s : State) : (readFrame s).cmd = s.cmd := by simp [readFrame_eq]
@[simp] theorem readFrame_errCode (s : State) : (readFrame s).errCode = s.errCode := by simp [readFrame_eq]
@[simp] theorem readFrame_phase (s : State) : (readFrame s).phase = s.phase := by simp [readFrame_eq]
@[simp] theorem readFrame_dir (s : State) : (readFrame s).dir = s.dir := by simp [readFrame_eq]
@[simp] theorem readFrame_k (s : State) : (readFrame s).k = s.k := by simp [readFrame_eq]
@[simp] theorem readFrame_stop (s : State) : (readFrame s).stop = s.stop := by simp [readFrame_eq]
@[simp] theorem readFrame_flColor (s : State) : (readFrame s).flColor = s.flColor := by simp [readFrame_eq]
@[simp] theorem readFrame_flDur (s : State) : (readFrame s).flDur = s.flDur := by simp [readFrame_eq]
@[simp] theorem readFrame_prng (s : State) : (readFrame s).prng = s.prng := by simp [readFrame_eq]
@[simp] theorem readFrame_tUs (s : State) : (readFrame s).tUs = s.tUs := by simp [readFrame_eq]
@[simp] theorem readFrame_pix (s : State) : (readFrame s).pix = s.pix := by simp [readFrame_eq]
@[simp] theorem readFrame_table (s : State) : (readFrame s).table = s.table := by simp [readFrame_eq]
@[simp] theorem readFrame_cfg (s : State) : (readFrame s).cfg = s.cfg := by simp [readFrame_eq]
@[simp] theorem readFrame_genWord (s : State) : (readFrame s).genWord = s.genWord := by simp [readFrame_eq]
@[simp] theorem readFrame_genOut (s : State) : (readFrame s).genOut = s.genOut := by simp [readFrame_eq]
@[simp] theorem readFrame_trace (s : State) : (readFrame s).trace = s.trace := by simp [readFrame_eq]
@[simp] theorem readFrame_turns (s : State) : (readFrame s).turns = s.turns := by simp [readFrame_eq]
@[simp] theorem readFrame_freeCount (s : State) : (readFrame s).freeCount = s.freeCount + 1 := by
  simp [readFrame_eq]

/-- An entry of the frame buffer the step read is the byte read. -/
theorem frameBuffer_getElem (bytes : List Byte) (n j : Nat) (h : j < 11) :
    (frameBuffer bytes n)[j] = frameEntry bytes n j := by simp [frameBuffer]

/-- The entries that the step read are exactly the bytes, in wire order. -/
theorem frameBuffer_take (bytes : List Byte) (n : Nat) (h : bytes.length ≤ 11) :
    (frameBuffer bytes n).toList.take bytes.length = bytes := by
  apply List.ext_getElem
  · simp [h]
  · intro i h1 h2
    simp [frameBuffer, frameEntry, List.getElem?_eq_getElem h2]

/-- The bytes a decode step read are the first eleven of the FIFO, and no stale entry among them (R203). -/
@[simp] theorem bytesRead_readFrame (s : State) : bytesRead (readFrame s) = s.rx.take 11 := by
  have hlen : (s.rx.take (min s.rx.length 11)).length = min s.rx.length 11 := by simp
  have hb := frameBuffer_take (s.rx.take (min s.rx.length 11)) s.freeCount (by omega)
  rw [hlen] at hb
  rw [bytesRead, readFrame_eq]
  show List.take (min s.rx.length 11) (frameBuffer _ _).toList = _
  rw [hb]
  by_cases h : s.rx.length ≤ 11
  · rw [Nat.min_eq_left h, List.take_of_length_le (Nat.le_refl _), List.take_of_length_le h]
  · rw [Nat.min_eq_right (by omega)]

/-- `HostSend`: appended, or lost and nothing changes (10_state.md R31). -/
theorem hostSend_cases (b : Byte) (s : State) :
    (fifoHasRoom s.cfg.rxDepth s.rx.length = true ∧ hostSend b s = { s with rx := s.rx ++ [b] })
      ∨ (fifoHasRoom s.cfg.rxDepth s.rx.length = false ∧ hostSend b s = s) := by
  unfold hostSend
  cases h : fifoHasRoom s.cfg.rxDepth s.rx.length <;> simp

/-- The poll writes `stop` and nothing else (41_pattern_engine.md R342). -/
theorem pollStop_eq (s : State) : pollStop s = { s with stop := s.stop || decide (0 < s.rx.length) } := by
  have hs : s = { s with stop := s.stop } := rfl
  unfold pollStop rxCount
  cases hstop : s.stop <;> by_cases h : 0 < s.rx.length <;> simp [h]
  · rw [← hstop]
  · rw [← hstop]
  · rw [← hstop]

/-! ## Pixels -/

@[simp] theorem uniformPixels_getElem (c : Color) (i : Nat) (h : i < 88) : (uniformPixels c)[i] = c := by
  simp [uniformPixels]

/-- Lighting LEDs sets exactly the listed ones. -/
theorem lightPixels_getElem (c : Color) (leds : List LedIndex) (p : LedFrame) (i : LedIndex) :
    (lightPixels c leds p)[i.val] = if i ∈ leds then c else p[i.val] := by
  induction leds generalizing p with
  | nil => simp [lightPixels]
  | cons j leds ih =>
    have hstep : lightPixels c (j :: leds) p = lightPixels c leds (setPixel j c p) := rfl
    rw [hstep, ih]
    by_cases hm : i ∈ leds
    · simp [hm]
    · by_cases hij : j = i
      · subst hij; simp [setPixel, hm]
      · have hne : j.val ≠ i.val := fun h => hij (Fin.ext h)
        have hne' : ¬ i = j := fun h => hij h.symm
        simp [setPixel, hm, hne', hne]

/-- The composed flash: the color at the chosen LEDs, `OFF` elsewhere (41_pattern_engine.md R325). -/
theorem composeFlash_getElem (c : Color) (leds : List LedIndex) (i : LedIndex) :
    (composeFlash c leds)[i.val] = if i ∈ leds then c else Color.off := by
  simp [composeFlash, lightPixels_getElem]

/-! ## The generator -/

@[simp] theorem tableOf_length (n : Nat) (f : Nat → Color) : (tableOf n f).length = n := by simp [tableOf]

@[simp] theorem tableOf_getElem (n : Nat) (f : Nat → Color) (i : Nat) (h : i < (tableOf n f).length) :
    (tableOf n f)[i] = f (i + 1) := by simp [tableOf]

/-- A generator operation stores its table, or takes AllocationFailure (42_curve_generator.md R410). -/
theorem generate_cases (n : Nat) (g : List Color) (s : State) :
    (canAllocate s.cfg n = true ∧ generate n g s = .next { s with genOut := g })
      ∨ (canAllocate s.cfg n = false ∧ generate n g s = .next (raise .allocFail s)) := by
  unfold generate
  cases h : canAllocate s.cfg n <;> simp

/-- The search finds a root within its bound: its power fits, and no larger candidate's does. -/
theorem rootWithin_spec (n v bound : Nat) (hn : 0 < n) :
    rootWithin n v bound ≤ bound ∧ (rootWithin n v bound) ^ n ≤ v
      ∧ ∀ y, y ≤ bound → y ^ n ≤ v → y ≤ rootWithin n v bound := by
  induction bound with
  | zero =>
    refine ⟨Nat.le_refl _, ?_, fun y hy _ => hy⟩
    simp only [rootWithin]
    rw [Nat.zero_pow hn]
    exact Nat.zero_le v
  | succ b ih =>
    unfold rootWithin
    split
    · rename_i h
      exact ⟨Nat.le_refl _, h, fun y hy _ => hy⟩
    · rename_i h
      obtain ⟨h1, h2, h3⟩ := ih
      refine ⟨Nat.le_succ_of_le h1, h2, fun y hy hyv => ?_⟩
      rcases Nat.lt_or_eq_of_le hy with hlt | rfl
      · exact h3 y (Nat.le_of_lt_succ hlt) hyv
      · exact absurd hyv h

@[simp] theorem loadTable_getElem (g : List Color) (t : DroneTable) (k : Nat) (h : k < 100) :
    (loadTable g t)[k] = g.getD k t[k] := by simp [loadTable]

end Sys2Proof.Machine
end

