-- ==== Sys2Proof/Laws/Exec.lean ====
section
/-! SUPPORT. What an instruction and a step can do, said once: inversion lemmas for the meanings, for the handlers and
for the step. -/

namespace Sys2Proof.Machine

open Sys2Proof

/-! ## The meanings -/

/-- NOTE: accepted with the parsed duration, or one of its two errors (40_frame_decoder.md R212 to R214). -/
theorem execNote_cases (idx : Byte) (dur : DurField) (s : State) :
    (∃ (h : idx.toNat < 12) (v : Nat), parseDuration s.cfg.acceptEmptyDuration dur = some v
        ∧ execNote idx dur s = .next (accept .flashShow (latchNote ⟨idx.toNat, h⟩ v s)))
      ∨ (idx.toNat ≤ 11 ∧ parseDuration s.cfg.acceptEmptyDuration dur = none
        ∧ execNote idx dur s = .next (raise .durationParse s))
      ∨ (11 < idx.toNat ∧ execNote idx dur s = .next (raise .noteIndex s)) := by
  unfold execNote
  by_cases h : idx.toNat ≤ 11
  · rw [dif_pos h]
    cases hp : parseDuration s.cfg.acceptEmptyDuration dur with
    | some v => exact .inl ⟨by omega, v, rfl, rfl⟩
    | none => exact .inr (.inl ⟨h, rfl, rfl⟩)
  · rw [dif_neg h]
    exact .inr (.inr ⟨by omega, rfl⟩)

/-- What an instruction can do: accept a frame, take an error, or store a generator table. -/
theorem exec_cases (i : Instr) (s : State) :
    exec i s = .next (accept .allOff (latchKind .droneOff s))
      ∨ exec i s = .next (accept .droneEntry (latchKind .droneOn s))
      ∨ (∃ (idx : Fin 12) (dur : DurField) (v : Nat), parseDuration s.cfg.acceptEmptyDuration dur = some v
          ∧ exec i s = .next (accept .flashShow (latchNote idx v s)))
      ∨ (∃ e, e ≠ .none ∧ exec i s = .next (raise e s))
      ∨ (∃ g, exec i s = .next { s with genOut := g }) := by
  cases i with
  | droneOff => exact .inl rfl
  | droneOn => exact .inr (.inl rfl)
  | note idx dur =>
    rcases execNote_cases idx dur s with ⟨h, v, hp, he⟩ | ⟨_, _, he⟩ | ⟨_, he⟩
    · exact .inr (.inr (.inl ⟨⟨idx.toNat, h⟩, dur, v, hp, he⟩))
    · exact .inr (.inr (.inr (.inl ⟨_, by decide, he⟩)))
    · exact .inr (.inr (.inr (.inl ⟨_, by decide, he⟩)))
  | genLinear a n =>
    rcases generate_cases n (linearTable a n) s with ⟨_, h⟩ | ⟨_, h⟩
    · exact .inr (.inr (.inr (.inr ⟨_, h⟩)))
    · exact .inr (.inr (.inr (.inl ⟨_, by decide, h⟩)))
  | genQuadratic a n =>
    rcases generate_cases n (quadraticTable a n) s with ⟨_, h⟩ | ⟨_, h⟩
    · exact .inr (.inr (.inr (.inr ⟨_, h⟩)))
    · exact .inr (.inr (.inr (.inl ⟨_, by decide, h⟩)))
  | genMinMaxQ a b n =>
    rcases generate_cases n (minMaxTable a b n) s with ⟨_, h⟩ | ⟨_, h⟩
    · exact .inr (.inr (.inr (.inr ⟨_, h⟩)))
    · exact .inr (.inr (.inr (.inl ⟨_, by decide, h⟩)))
  | genExponential a n =>
    rcases generate_cases n (exponentialTable a n) s with ⟨_, h⟩ | ⟨_, h⟩
    · exact .inr (.inr (.inr (.inr ⟨_, h⟩)))
    · exact .inr (.inr (.inr (.inl ⟨_, by decide, h⟩)))

/-! ## The decoder -/

/-- A frame decodes to a command, never to a generator operation. -/
theorem decodeFrame_cases (bytes : List Byte) :
    (∃ e, decodeFrame bytes = .error e) ∨ decodeFrame bytes = .ok .droneOff ∨ decodeFrame bytes = .ok .droneOn
      ∨ decodeFrame bytes = .ok (.note (byteAt bytes 2) (durField bytes)) := by
  unfold decodeFrame
  split
  · exact .inl ⟨_, rfl⟩
  split
  · exact .inl ⟨_, rfl⟩
  split
  · exact .inl ⟨_, rfl⟩
  split
  · exact .inr (.inl rfl)
  split
  · exact .inr (.inr (.inl rfl))
  split
  · exact .inr (.inr (.inr rfl))
  · exact .inl ⟨_, rfl⟩

/-! ## The handlers -/

/-- Where a drone step leads: up, turn, down, return, or a new pass (41_pattern_engine.md R342, R343). -/
theorem nextDroneStep_cases (d : Dir) (k : Fin 100) (stop : Bool) :
    (∃ h : k.val < 99, d = .asc ∧ nextDroneStep d k stop = (.asc, ⟨k.val + 1, by omega⟩, .droneShow))
      ∨ (d = .asc ∧ k.val = 99 ∧ nextDroneStep d k stop = (.desc, k, .droneShow))
      ∨ (d = .desc ∧ 0 < k.val ∧ nextDroneStep d k stop = (.desc, ⟨k.val - 1, by omega⟩, .droneShow))
      ∨ (d = .desc ∧ k.val = 0 ∧ stop = true ∧ nextDroneStep d k stop = (.desc, k, .idle))
      ∨ (d = .desc ∧ k.val = 0 ∧ stop = false ∧ nextDroneStep d k stop = (.asc, 0, .droneShow)) := by
  have hk := k.isLt
  cases d with
  | asc =>
    by_cases h : k.val < 99
    · exact .inl ⟨h, rfl, by simp [nextDroneStep, h]⟩
    · exact .inr (.inl ⟨rfl, by omega, by simp [nextDroneStep, h]⟩)
  | desc =>
    by_cases h : 0 < k.val
    · exact .inr (.inr (.inl ⟨rfl, h, by simp [nextDroneStep, h]⟩))
    · cases stop with
      | true => exact .inr (.inr (.inr (.inl ⟨rfl, by omega, rfl, by simp [nextDroneStep, h]⟩)))
      | false => exact .inr (.inr (.inr (.inr ⟨rfl, by omega, rfl, by simp [nextDroneStep, h]⟩)))

/-- The whole DRONE_WAIT step: the hold, the poll, the advance, and nothing else. -/
theorem droneWaitStep_eq (s : State) :
    droneWaitStep s = { s with
      trace := s.trace ++ [.hold (droneStepUs s.cfg s.dir)]
      tUs := s.tUs + droneStepUs s.cfg s.dir
      stop := s.stop || decide (0 < s.rx.length)
      dir := (nextDroneStep s.dir s.k (s.stop || decide (0 < s.rx.length))).1
      k := (nextDroneStep s.dir s.k (s.stop || decide (0 < s.rx.length))).2.1
      phase := (nextDroneStep s.dir s.k (s.stop || decide (0 < s.rx.length))).2.2 } := by
  simp [droneWaitStep, droneAdvance, pollStop_eq, hold]

/-- After a DRONE_WAIT step the phase is DRONE_SHOW or IDLE. -/
theorem nextDroneStep_phase (d : Dir) (k : Fin 100) (stop : Bool) :
    (nextDroneStep d k stop).2.2 = .droneShow ∨ (nextDroneStep d k stop).2.2 = .idle := by
  rcases nextDroneStep_cases d k stop with ⟨_, _, e⟩ | ⟨_, _, e⟩ | ⟨_, _, e⟩ | ⟨_, _, _, e⟩ | ⟨_, _, _, e⟩ <;>
    simp [e]

/-! ## The step -/

/-- A step that runs an instruction is its `exec`, retired. -/
theorem step_of_run {s s1 : State} {i : Instr} (h : fetch s = .run i s1) :
    step s = retireOutcome (exec i s1) := by
  simp only [step, h]

/-- A step without an instruction is what the fetch says. -/
theorem step_of_done {s : State} {o : Host.Outcome State Fault Refusal} (h : fetch s = .done o) : step s = o := by
  simp only [step, h]

/-- The state whose block step a turn takes: the schedule without its first entry, if that is the block's. -/
theorem fetch_cases (s : State) :
    (∃ b rest, s.turns = .host b :: rest ∧ fetch s = .done (.next (hostSend b { s with turns := rest })))
      ∨ (∃ ts, BlockTurn s { s with turns := ts } ∧ fetch s = fetchBlock { s with turns := ts }) := by
  cases ht : s.turns with
  | nil =>
    refine .inr ⟨[], ?_⟩
    have hs : s = { s with turns := [] } := by rw [← ht]
    rw [← hs]
    exact ⟨.inl ⟨ht, rfl⟩, by simp [fetch, ht]⟩
  | cons t rest =>
    cases t with
    | block => exact .inr ⟨rest, .inr ⟨rest, ht, rfl⟩, by simp [fetch, ht]⟩
    | host b => exact .inl ⟨b, rest, rfl, by simp [fetch, ht]⟩

/-- What a block step can do that ends in a next state. -/
inductive BlockStep (s : State) : State → Prop where
  /-- `IDLE` with an empty FIFO: the block waits -/
  | wait (hp : s.phase = .idle) (hrx : s.rx = []) : BlockStep s s
  /-- a decode step that rejects the bytes -/
  | drop (hp : s.phase = .idle) (hrx : s.rx ≠ []) (e : ErrCode) (he : e ≠ .none) (ha : e ≠ .allocFail) :
      BlockStep s (raise e (readFrame s))
  /-- a decode step that accepts DRONE_OFF -/
  | droneOff (hp : s.phase = .idle) (hrx : s.rx ≠ []) :
      BlockStep s (accept .allOff (latchKind .droneOff (readFrame s)))
  /-- a decode step that accepts DRONE_ON -/
  | droneOn (hp : s.phase = .idle) (hrx : s.rx ≠ []) :
      BlockStep s (accept .droneEntry (latchKind .droneOn (readFrame s)))
  /-- a decode step that accepts NOTE -/
  | note (hp : s.phase = .idle) (hrx : s.rx ≠ []) (idx : Fin 12) (dur : DurField) (v : Nat)
      (hv : parseDuration s.cfg.acceptEmptyDuration dur = some v) :
      BlockStep s (accept .flashShow (latchNote idx v (readFrame s)))
  /-- the startup step that fails -/
  | initFail (hp : s.phase = .init) : BlockStep s (raise .allocFail s)
  /-- the startup step that stores its table -/
  | initDone (hp : s.phase = .init) (g : List Color) (hg : exec (decodeControl s.genWord) s = .next { s with genOut := g }) :
      BlockStep s (retire { s with genOut := g })
  /-- the handler steps -/
  | allOff (hp : s.phase = .allOff) : BlockStep s (allOffStep s)
  | droneEntry (hp : s.phase = .droneEntry) : BlockStep s (droneEntryStep s)
  | droneShow (hp : s.phase = .droneShow) : BlockStep s (droneShowStep s)
  | droneWait (hp : s.phase = .droneWait) : BlockStep s (droneWaitStep s)
  | flashShow (hp : s.phase = .flashShow) : BlockStep s (flashShowStep s)
  | flashWait (hp : s.phase = .flashWait) : BlockStep s (flashWaitStep s)

/-- A generator operation's outcome, by decoding of the control word. -/
theorem exec_control_cases (w : GenWord) (s : State) :
    (∃ g, exec (decodeControl w) s = .next { s with genOut := g })
      ∨ exec (decodeControl w) s = .next (raise .allocFail s) := by
  unfold decodeControl
  split
  · rcases generate_cases w.n (linearTable w.a w.n) s with ⟨_, h⟩ | ⟨_, h⟩
    · exact .inl ⟨_, h⟩
    · exact .inr h
  split
  · rcases generate_cases w.n (quadraticTable w.a w.n) s with ⟨_, h⟩ | ⟨_, h⟩
    · exact .inl ⟨_, h⟩
    · exact .inr h
  split
  · rcases generate_cases w.n (minMaxTable w.a w.b w.n) s with ⟨_, h⟩ | ⟨_, h⟩
    · exact .inl ⟨_, h⟩
    · exact .inr h
  · rcases generate_cases w.n (exponentialTable w.a w.n) s with ⟨_, h⟩ | ⟨_, h⟩
    · exact .inl ⟨_, h⟩
    · exact .inr h

/-- The run of a fetched instruction: its outcome retired. -/
def runFetched : Fetched → Host.Outcome State Fault Refusal
  | .done o => o
  | .run i s1 => retireOutcome (exec i s1)

theorem step_eq_runFetched (s : State) : step s = runFetched (fetch s) := by
  unfold step runFetched
  cases fetch s <;> rfl

/-- Nothing is retired outside startup. -/
theorem retire_of_ne {s : State} (h : s.phase ≠ .init) : retire s = s := by simp [retire, h]

/-- A block step that answers a next state is one of the listed ones. -/
theorem blockStep_cases {s s' : State} (h : runFetched (fetchBlock s) = .next s') : BlockStep s s' := by
  unfold fetchBlock at h
  cases hp : s.phase with
  | init =>
    simp only [hp, runFetched] at h
    rcases exec_control_cases s.genWord s with ⟨g, hg⟩ | hg
    · rw [hg] at h
      injection h with h
      subst h
      exact .initDone hp g hg
    · rw [hg] at h
      injection h with h
      have hr : retire (raise .allocFail s) = raise .allocFail s := retire_of_ne (by simp)
      rw [hr] at h
      subst h
      exact .initFail hp
  | idle =>
    simp only [hp] at h
    unfold fetchFrame at h
    by_cases hrx : rxCount s = 0
    · rw [if_pos hrx] at h
      injection h with h
      subst h
      exact .wait hp (List.length_eq_zero_iff.mp hrx)
    · rw [if_neg hrx] at h
      have hne : s.rx ≠ [] := fun h0 => hrx (by simp [rxCount, h0])
      rcases decodeFrame_cases (bytesRead (readFrame s)) with ⟨e, hd⟩ | hd | hd | hd
      · rw [hd] at h
        injection h with h
        subst h
        exact .drop hp hne _ (by cases e <;> decide) (by cases e <;> decide)
      · rw [hd] at h
        injection h with h
        rw [retire_of_ne (by simp)] at h
        subst h
        exact .droneOff hp hne
      · rw [hd] at h
        injection h with h
        rw [retire_of_ne (by simp)] at h
        subst h
        exact .droneOn hp hne
      · rw [hd] at h
        simp only [runFetched, exec] at h
        rcases execNote_cases (byteAt (bytesRead (readFrame s)) 2) (durField (bytesRead (readFrame s))) (readFrame s)
          with ⟨hi, v, hv, he⟩ | ⟨_, _, he⟩ | ⟨_, he⟩
        · rw [he] at h
          injection h with h
          rw [retire_of_ne (by simp)] at h
          subst h
          exact .note hp hne ⟨_, hi⟩ _ v (by simpa using hv)
        · rw [he] at h
          injection h with h
          rw [retire_of_ne (by simp)] at h
          subst h
          exact .drop hp hne _ (by decide) (by decide)
        · rw [he] at h
          injection h with h
          rw [retire_of_ne (by simp)] at h
          subst h
          exact .drop hp hne _ (by decide) (by decide)
  | allOff => simp only [hp] at h; injection h with h; subst h; exact .allOff hp
  | droneEntry => simp only [hp] at h; injection h with h; subst h; exact .droneEntry hp
  | droneShow => simp only [hp] at h; injection h with h; subst h; exact .droneShow hp
  | droneWait => simp only [hp] at h; injection h with h; subst h; exact .droneWait hp
  | flashShow => simp only [hp] at h; injection h with h; subst h; exact .flashShow hp
  | flashWait => simp only [hp] at h; injection h with h; subst h; exact .flashWait hp
  | halted => simp only [hp] at h; cases h

/-- What a step can do: the host's `HostSend`, or a block step at the state with the turn taken. -/
theorem step_cases {s s' : State} (h : step s = .next s') :
    (∃ b rest, s.turns = .host b :: rest ∧ s' = hostSend b { s with turns := rest })
      ∨ (∃ ts, BlockTurn s { s with turns := ts } ∧ BlockStep { s with turns := ts } s') := by
  rw [step_eq_runFetched] at h
  rcases fetch_cases s with ⟨b, rest, ht, hf⟩ | ⟨ts, hb, hf⟩
  · rw [hf] at h
    injection h with h
    exact .inl ⟨b, rest, ht, h.symm⟩
  · rw [hf] at h
    exact .inr ⟨ts, hb, blockStep_cases h⟩

end Sys2Proof.Machine
end

