-- ==== Sys2Proof/Laws/PerInstr.lean ====
section
/-! SUPPORT. The statements made per instruction. `EncodeShape` says what the encoding of an instruction looks like; one
lemma per constructor. -/

namespace Sys2Proof.Laws

open Sys2Proof

/-- The encoding of an instruction: a frame has 11 bytes between the two markers, and its second byte is the
instruction's (spec/30_encoding.md R130, R131, R139); a control word has the instruction's `CURVE` (R143). -/
def EncodeShape.Statement (i : Instr) : Prop :=
  (∀ bytes : List Byte, encode i = .frame bytes →
      bytes.length = 11 ∧ bytes[0]? = some 0x25 ∧ bytes[10]? = some 0x26
        ∧ bytes[1]? = some ((match i with
          | .droneOff => 0x30
          | .droneOn => 0x31
          | _ => 0x32) : Byte))
    ∧ ∀ w, encode i = .control w → w.curve = match i with
      | .genLinear _ _ => 0
      | .genQuadratic _ _ => 1
      | .genMinMaxQ _ _ _ => 2
      | _ => 3

/-- The bytes of a duration field, one by one. -/
theorem durField_toList (dur : DurField) :
    dur.toList = [dur[0], dur[1], dur[2], dur[3], dur[4], dur[5], dur[6]] := by
  apply List.ext_getElem
  · simp
  · intro j h1 h2
    simp only [List.length_cons, List.length_nil] at h2
    have : j < 7 := by omega
    interval_cases j <;> simp

/-- The duration field of a frame that was built from one. -/
theorem durField_frameOf (cmd idx : Byte) (dur : DurField) : durField (frameOf cmd idx dur.toList) = dur := by
  simp only [frameOf, durField_toList]
  apply Vector.ext
  intro j h
  interval_cases j <;> simp [durField, byteAt]

theorem EncodeShape.droneOff : EncodeShape.Statement .droneOff := by
  refine ⟨fun bytes h => ?_, fun w h => by simp [encode] at h⟩
  simp only [encode, Code.frame.injEq] at h
  subst h
  decide

theorem EncodeShape.droneOn : EncodeShape.Statement .droneOn := by
  refine ⟨fun bytes h => ?_, fun w h => by simp [encode] at h⟩
  simp only [encode, Code.frame.injEq] at h
  subst h
  decide

theorem EncodeShape.note (idx : Byte) (dur : DurField) : EncodeShape.Statement (.note idx dur) := by
  refine ⟨fun bytes h => ?_, fun w h => by simp [encode] at h⟩
  simp only [encode, Code.frame.injEq] at h
  subst h
  simp [frameOf, durField_toList, startMarker, endMarker, cmdNote]

theorem EncodeShape.genLinear (a : Color) (n : Nat) : EncodeShape.Statement (.genLinear a n) :=
  ⟨fun bytes h => by simp [encode] at h, fun w h => by simp only [encode, Code.control.injEq] at h; subst h; rfl⟩

theorem EncodeShape.genQuadratic (a : Color) (n : Nat) : EncodeShape.Statement (.genQuadratic a n) :=
  ⟨fun bytes h => by simp [encode] at h, fun w h => by simp only [encode, Code.control.injEq] at h; subst h; rfl⟩

theorem EncodeShape.genMinMaxQ (a b : Color) (n : Nat) : EncodeShape.Statement (.genMinMaxQ a b n) :=
  ⟨fun bytes h => by simp [encode] at h, fun w h => by simp only [encode, Code.control.injEq] at h; subst h; rfl⟩

theorem EncodeShape.genExponential (a : Color) (n : Nat) : EncodeShape.Statement (.genExponential a n) :=
  ⟨fun bytes h => by simp [encode] at h, fun w h => by simp only [encode, Code.control.injEq] at h; subst h; rfl⟩

end Sys2Proof.Laws
end

