-- ==== Sys2Proof/Laws/Step.lean ====
section
/-! SUPPORT. The step at a block turn: what it runs, and the reads it makes. -/

namespace Sys2Proof.Machine

open Sys2Proof

/-- At a block turn the step is the block's, at the state with the turn taken. -/
theorem step_of_blockTurn {s s0 : State} (h : BlockTurn s s0) : step s = runFetched (fetchBlock s0) := by
  rw [step_eq_runFetched]
  rcases h with ⟨ht, rfl⟩ | ⟨rest, ht, rfl⟩
  · simp [fetch, ht]
  · simp [fetch, ht]

/-- The read of a decode step by its fields: `fcount`, the bytes in wire order, the empty FIFO (R201, R202). -/
theorem readFrame_shape (s : State) :
    ∃ (fr : Vector Byte 11) (n : Fin 12), n.val = min s.rx.length 11
      ∧ (∀ j (_ : j < 11) (_ : j < s.rx.length), fr[j] = s.rx[j])
      ∧ readFrame s = { s with rx := [], frame := fr, fcount := n, freeCount := s.freeCount + 1 } := by
  refine ⟨_, _, rfl, ?_, readFrame_eq s⟩
  intro j h h'
  have hj : j < min s.rx.length 11 := by omega
  rw [frameBuffer_getElem _ _ _ h]
  simp [frameEntry, hj]

/-- A decode step is decided by the first eleven pending bytes. -/
theorem step_of_decode {s s0 : State} (h : BlockTurn s s0) (hp : s0.phase = .idle) (hrx : s0.rx ≠ []) :
    step s = match decodeFrame (s0.rx.take 11) with
      | .error e => .next (raise (frameErrorCode e) (readFrame s0))
      | .ok i => retireOutcome (exec i (readFrame s0)) := by
  have hc : rxCount s0 ≠ 0 := by simpa [rxCount] using hrx
  rw [step_of_blockTurn h]
  simp only [fetchBlock, hp, fetchFrame, if_neg hc, bytesRead_readFrame]
  cases decodeFrame (s0.rx.take 11) <;> rfl

/-- A frame's instruction leaves nothing to retire. -/
theorem retire_of_frame {bytes : List Byte} {i : Instr} (h : decodeFrame bytes = .ok i) (s : State) :
    retireOutcome (exec i s) = exec i s := by
  rcases decodeFrame_cases bytes with ⟨e, hd⟩ | hd | hd | hd <;> rw [hd] at h <;> cases h
  · simp [exec, execDroneOff, retireOutcome, retire]
  · simp [exec, execDroneOn, retireOutcome, retire]
  · simp only [exec]
    rcases execNote_cases (byteAt bytes 2) (durField bytes) s with ⟨_, _, _, he⟩ | ⟨_, _, he⟩ | ⟨_, he⟩ <;>
      rw [he] <;> simp [retireOutcome, retire]

/-- The startup operation is GEN_QUADRATIC of the drone color with 100 elements (30_encoding.md R144). -/
theorem decodeControl_startupWord (c : Config) : decodeControl (startupWord c) = .genQuadratic c.droneColor 100 := by
  simp [decodeControl, startupWord, droneSteps]

end Sys2Proof.Machine
end

