-- ==== Sys2Proof/Laws/Run.lean ====
section
/-! SUPPORT. Runs of the machine: zero steps, one step more, runs put together, and the host's `Core.run`. -/

namespace Sys2Proof.Machine

open Sys2Proof

@[simp] theorem run_zero (s : State) : run 0 s = .next s := rfl

/-- One step and then m more. -/
theorem run_succ (m : Nat) {s t : State} (h : step s = .next t) : run (m + 1) s = run m t := by
  simp only [run, h]

/-- A run that answers a next state began with a step that did. -/
theorem run_first {m : Nat} {s t : State} (h : run (m + 1) s = .next t) :
    ∃ u, step s = .next u ∧ run m u = .next t := by
  simp only [run] at h
  cases hs : step s with
  | next u => rw [hs] at h; exact ⟨u, rfl, h⟩
  | fault f => rw [hs] at h; cases h
  | refused r => rw [hs] at h; cases h

/-- Runs put together. -/
theorem run_add {m : Nat} (n : Nat) {s t : State} (h : run m s = .next t) : run (m + n) s = run n t := by
  induction m generalizing s with
  | zero => cases h; rw [Nat.zero_add]
  | succ m ih =>
    obtain ⟨u, hs, hu⟩ := run_first h
    rw [Nat.succ_add, run_succ _ hs]
    exact ih hu

/-- A property that every step keeps holds at the end of every run. -/
theorem run_keeps {P : State → Prop} (keep : ∀ s t, P s → step s = .next t → P t) {m : Nat} {s t : State} (hs : P s)
    (h : run m s = .next t) : P t := by
  induction m generalizing s with
  | zero => cases h; exact hs
  | succ m ih =>
    obtain ⟨u, h1, h2⟩ := run_first h
    exact ih (keep s u hs h1) h2

/-- The host's run of a machine whose first step answers a next state. -/
theorem hostRun_next (M : Host.Core) (m : Nat) {s t : M.State} (h : M.step s = .next t) : M.run (m + 1) s = M.run m t := by
  rw [Host.Core.run, h]

/-- The host's run of a machine whose first step is a fault. -/
theorem hostRun_fault (M : Host.Core) (m : Nat) {s : M.State} {f : M.Fault} (h : M.step s = .fault f) :
    M.run (m + 1) s = .fault f := by
  rw [Host.Core.run, h]

/-- The host's run of a machine whose first step is refused. -/
theorem hostRun_refused (M : Host.Core) (m : Nat) {s : M.State} {r : M.Refusal} (h : M.step s = .refused r) :
    M.run (m + 1) s = .refused r := by
  rw [Host.Core.run, h]

/-- `run` is the host's run of this machine. -/
theorem run_eq_hostRun (m : Nat) (s : State) : run m s = Host.Core.run Sys2Proof.core m s := by
  induction m generalizing s with
  | zero => rfl
  | succ m ih =>
    cases hs : step s with
    | next t => exact (run_succ m hs).trans ((ih t).trans (hostRun_next Sys2Proof.core m hs).symm)
    | fault f =>
      have hr : run (m + 1) s = .fault f := by simp only [run, hs]
      exact hr.trans (hostRun_fault Sys2Proof.core m hs).symm
    | refused r =>
      have hr : run (m + 1) s = .refused r := by simp only [run, hs]
      exact hr.trans (hostRun_refused Sys2Proof.core m hs).symm

end Sys2Proof.Machine
end

