-- ==== Sys2Proof/Tests/Slice0.lean ====
section
/-! SUPPORT. Tests: expected values are those of spec/95_test_vectors.md (their ids stand in the docstrings), of the worked
examples of the rules, or hand computations from a rule. Below them, for every statement with hypotheses, a concrete
state and operands that meet them. -/

namespace Sys2Proof.Tests

open Sys2Proof Sys2Proof.Machine

/-! ## Helpers -/

/-- A state right after reset with the default configuration, in a phase, with bytes pending. -/
def inPhase (p : Phase) (rx : List Byte) : State := { State.resetWith Config.default 0 with phase := p, rx := rx }

/-- The next state of an outcome, if there is one. -/
def nextOf : Host.Outcome State Fault Refusal → Option State
  | .next s => some s
  | .fault _ => none
  | .refused _ => none

/-- The error code of one decode step of the given bytes, if the frame is dropped with no event and the FIFO empty. -/
def dropped (rx : List Byte) : Option ErrCode :=
  match nextOf (step (inPhase .idle rx)) with
  | some t => if t.phase = .idle ∧ t.trace = [] ∧ t.rx = [] then some t.errCode else none
  | none => none

/-- The index and duration of one accepted NOTE, if it is acknowledged once and the FIFO is empty. -/
def noted (rx : List Byte) : Option (Nat × Nat) :=
  match nextOf (step (inPhase .idle rx)) with
  | some t =>
    if t.phase = .flashShow ∧ t.trace = [.tx 0x31] ∧ t.rx = [] ∧ t.errCode = .none then
      some (t.cmd.note.toNat, t.flDur.toNat)
    else none
  | none => none

/-- The phase after one accepted DRONE_OFF or DRONE_ON, if it is acknowledged once and the FIFO is empty. -/
def droned (rx : List Byte) : Option Phase :=
  match nextOf (step (inPhase .idle rx)) with
  | some t => if t.trace = [.tx 0x31] ∧ t.rx = [] ∧ t.errCode = .none then some t.phase else none
  | none => none

/-- A generator that returns the listed raw draws. -/
def scripted : List Nat → Nat × List Nat
  | [] => (0, [])
  | r :: rest => (r, rest)

/-- The LEDs a flash lights with scripted draws, in rising order, and the number of draws left over. -/
def lit (draws : List Nat) : List Nat × Nat :=
  let sel := selectFlash scripted Config.default draws
  ((List.range 88).filter fun i => decide (i ∈ sel.1.map Fin.val), sel.2.length)

/-- The red channels of a table. -/
def reds (t : List Color) : List Nat := t.map fun c => c.r.toNat

/-! ## Well-formedness: an ill-formed term for each check -/

/-- R12: a quadruple with a repeated index. -/
theorem test_wf_quad_distinct :
    RawConfig.quadsDistinct { RawConfig.default with
      topology := { Topology.consecutive with
        front := #v[⟨0, 0, 2, 3⟩, Quad.ofBase 4, Quad.ofBase 8, Quad.ofBase 12] } } = false := by decide

/-- R12, R97: an index in two subgroups, and one in none. -/
theorem test_wf_partition :
    RawConfig.sidePartition { RawConfig.default with
      topology := { Topology.consecutive with
        back := #v[Quad.ofBase 12, Quad.ofBase 20, Quad.ofBase 24, Quad.ofBase 28] } } = false := by decide

/-- R12, R97: the top bases leave 80 uncovered. -/
theorem test_wf_top : RawConfig.topCovers { RawConfig.default with topBase0 := 81 } = false := by decide

/-- R12, R99: note 0 is not red. -/
theorem test_wf_note_zero :
    RawConfig.noteZeroRed { RawConfig.default with noteColor := Vector.replicate 12 Color.off } = false := by decide

/-- R12: a FIFO of 10 bytes; one of 11 is accepted. -/
theorem test_wf_rx_depth :
    RawConfig.rxDepthOk { RawConfig.default with rxDepth := some 10 } = false
      ∧ RawConfig.rxDepthOk { RawConfig.default with rxDepth := some 11 } = true := by decide

/-- R133: note index 12. -/
theorem test_wf_note_index : Instr.wf Config.default (.note 12 #v[0x31, 0, 0, 0, 0, 0, 0]) = false := by decide

/-- R136, V-D20: the numeral "12A". -/
theorem test_wf_numeral :
    Instr.wf Config.default (.note 0 #v[0x31, 0x32, 0x41, 0, 0, 0, 0]) = false := by decide

/-- R136, V-D18: an empty numeral when `ACCEPT_EMPTY_DURATION` is false. -/
theorem test_wf_empty_numeral : durationWellFormed false #v[0, 0, 0, 0, 0, 0, 0] = false := by decide

/-- R143: a table longer than `TABLE_CAPACITY`. -/
theorem test_wf_table_length : Instr.wf Config.default (.genQuadratic Color.off 101) = false := by decide

/-! ## Decoding: words written out from the spec's encodings -/

/-- R145, V-D10, V-D37: DRONE_OFF with zero and with other padding. -/
theorem test_decode_drone_off :
    decodeFrame [0x25, 0x30, 0, 0, 0, 0, 0, 0, 0, 0, 0x26] = .ok .droneOff
      ∧ decodeFrame [0x25, 0x30, 0xFF, 0x12, 0x34, 0x56, 0x78, 0x9A, 0xBC, 0xDE, 0x26] = .ok .droneOff := by decide

/-- R145, V-D11. -/
theorem test_decode_drone_on : decodeFrame [0x25, 0x31, 0, 0, 0, 0, 0, 0, 0, 0, 0x26] = .ok .droneOn := by decide

/-- R147: `NOTE 0, "120"`, as bytes and as the table's 88-bit number. -/
theorem test_decode_note :
    decodeFrame [0x25, 0x32, 0, 0x31, 0x32, 0x30, 0, 0, 0, 0, 0x26] = .ok (.note 0 #v[0x31, 0x32, 0x30, 0, 0, 0, 0])
      ∧ decodeTableWord 88 0x2532003132300000000026 = some (.note 0 #v[0x31, 0x32, 0x30, 0, 0, 0, 0]) := by decide

/-- The table's `match` words of the three frames. -/
theorem test_decode_table_frames :
    decodeTableWord 88 0x2530000000000000000026 = some .droneOff
      ∧ decodeTableWord 88 0x2531000000000000000026 = some .droneOn
      ∧ decodeTableWord 88 0x2532000000000000000026 = some (.note 0 #v[0, 0, 0, 0, 0, 0, 0]) := by decide

/-- R143 and the table's `match` words of the four curves; with operands `A` = (1, 2, 3), `B` = (4, 5, 6), `N` = 7 at the
places of log 12. -/
theorem test_decode_control :
    decodeTableWord 8 0 = some (.genLinear Color.off 0)
      ∧ decodeTableWord 8 1 = some (.genQuadratic Color.off 0)
      ∧ decodeTableWord 8 2 = some (.genMinMaxQ Color.off Color.off 0)
      ∧ decodeTableWord 8 3 = some (.genExponential Color.off 0)
      ∧ decodeTableWord 8 (2 + 4 * 0x010203 + 2 ^ 26 * 0x040506 + 2 ^ 50 * 7)
        = some (.genMinMaxQ ⟨1, 2, 3⟩ ⟨4, 5, 6⟩ 7) := by decide

/-- R140: the four FrameErrors, V-D33, V-D31, V-D32, V-D28. -/
theorem test_decode_rejects :
    decodeFrame [0x25, 0x30, 0, 0, 0, 0, 0, 0, 0, 0x26] = .error .short
      ∧ decodeFrame [0x26, 0x30, 0, 0, 0, 0, 0, 0, 0, 0, 0x25] = .error .badStart
      ∧ decodeFrame [0x25, 0x30, 0, 0, 0, 0, 0, 0, 0, 0, 0] = .error .badEnd
      ∧ decodeFrame [0x25, 0x33, 0, 0, 0, 0, 0, 0, 0, 0, 0x26] = .error .badCmd := by decide

/-! ## Decode steps -/

/-- V-D10, V-D35 (the 12th byte is flushed). -/
theorem test_step_drone_off :
    droned [0x25, 0x30, 0, 0, 0, 0, 0, 0, 0, 0, 0x26] = some .allOff
      ∧ droned [0x25, 0x30, 0, 0, 0, 0, 0, 0, 0, 0, 0x26, 0x41] = some .allOff := by decide

/-- V-D11, V-D38. -/
theorem test_step_drone_on :
    droned [0x25, 0x31, 0, 0, 0, 0, 0, 0, 0, 0, 0x26] = some .droneEntry
      ∧ droned [0x25, 0x31, 0x41, 0x41, 0x41, 0x41, 0x41, 0x41, 0x41, 0x41, 0x26] = some .droneEntry := by decide

/-- V-D12, V-D13, V-D17, V-D19, V-D21, V-D22, V-D25. -/
theorem test_step_note_accepts :
    noted [0x25, 0x32, 0, 0x31, 0x32, 0x30, 0, 0, 0, 0, 0x26] = some (0, 120)
      ∧ noted [0x25, 0x32, 0x0B, 0x39, 0x39, 0x39, 0x39, 0x39, 0x39, 0x39, 0x26] = some (11, 9999999)
      ∧ noted [0x25, 0x32, 0, 0, 0, 0, 0, 0, 0, 0, 0x26] = some (0, 0)
      ∧ noted [0x25, 0x32, 0, 0x26, 0, 0, 0, 0, 0, 0, 0x26] = some (0, 0)
      ∧ noted [0x25, 0x32, 0, 0x31, 0x26, 0, 0, 0, 0, 0, 0x26] = some (0, 1)
      ∧ noted [0x25, 0x32, 5, 0x35, 0, 0x41, 0x41, 0, 0, 0, 0x26] = some (5, 5)
      ∧ noted [0x25, 0x32, 0, 0x30, 0x30, 0x37, 0, 0, 0, 0, 0x26] = some (0, 7) := by decide

/-- V-D14, V-D15, V-D16, V-D27 (NOTE_INDEX); V-D20, V-D23, V-D24, V-D26 (DURATION_PARSE). -/
theorem test_step_note_rejects :
    dropped [0x25, 0x32, 0x0C, 0x31, 0, 0, 0, 0, 0, 0, 0x26] = some .noteIndex
      ∧ dropped [0x25, 0x32, 0x30, 0x31, 0, 0, 0, 0, 0, 0, 0x26] = some .noteIndex
      ∧ dropped [0x25, 0x32, 0xFF, 0x31, 0, 0, 0, 0, 0, 0, 0x26] = some .noteIndex
      ∧ dropped [0x25, 0x32, 0x0C, 0x41, 0, 0, 0, 0, 0, 0, 0x26] = some .noteIndex
      ∧ dropped [0x25, 0x32, 0, 0x31, 0x32, 0x41, 0, 0, 0, 0, 0x26] = some .durationParse
      ∧ dropped [0x25, 0x32, 0, 0x2B, 0x31, 0, 0, 0, 0, 0, 0x26] = some .durationParse
      ∧ dropped [0x25, 0x32, 0, 0x20, 0x31, 0, 0, 0, 0, 0, 0x26] = some .durationParse
      ∧ dropped [0x25, 0x32, 0, 0x31, 0x2E, 0x35, 0, 0, 0, 0, 0x26] = some .durationParse := by decide

/-- V-D28 to V-D33, V-D36, V-D39, V-D40. -/
theorem test_step_frame_errors :
    dropped [0x25, 0x33, 0, 0, 0, 0, 0, 0, 0, 0, 0x26] = some .frameCmd
      ∧ dropped [0x25, 0, 0, 0, 0, 0, 0, 0, 0, 0, 0x26] = some .frameCmd
      ∧ dropped [0x25, 0x33, 0, 0, 0, 0, 0, 0, 0, 0, 0] = some .frameEnd
      ∧ dropped [0x26, 0x30, 0, 0, 0, 0, 0, 0, 0, 0, 0x25] = some .frameStart
      ∧ dropped [0x25, 0x30, 0, 0, 0, 0, 0, 0, 0, 0, 0] = some .frameEnd
      ∧ dropped [0x25, 0x30, 0, 0, 0, 0, 0, 0, 0, 0x26] = some .frameShort
      ∧ dropped [0, 0x25, 0x30, 0, 0, 0, 0, 0, 0, 0, 0, 0x26] = some .frameStart
      ∧ dropped [0x25, 0x32, 0, 0x31, 0x32, 0x33, 0x34, 0x35, 0x36, 0x37, 0] = some .frameEnd
      ∧ dropped [0x25] = some .frameShort := by decide

/-- V-D18: the empty numeral with `ACCEPT_EMPTY_DURATION` = false. -/
theorem test_empty_numeral_refused : parseDuration false #v[0, 0, 0, 0, 0, 0, 0] = none := by decide

/-- V-D34: with the FIFO empty nothing happens. -/
theorem test_idle_empty : nextOf (step (inPhase .idle [])) = some (inPhase .idle []) := rfl

/-- R31: a full FIFO of 11 loses the byte. -/
theorem test_host_send_full : fifoHasRoom (some 11) 11 = false ∧ fifoHasRoom (some 11) 10 = true := by decide

/-! ## The generator -/

/-- V-G2, V-G3. -/
theorem test_gen_linear :
    reds (linearTable ⟨255, 0, 0⟩ 4) = [63, 127, 191, 255] ∧ reds (linearTable ⟨7, 0, 0⟩ 3) = [2, 4, 7] := by decide

/-- V-G5, V-G7. -/
theorem test_gen_quadratic :
    reds (quadraticTable ⟨255, 0, 0⟩ 4) = [15, 63, 143, 255]
      ∧ quadraticTable ⟨200, 100, 50⟩ 3 = [⟨22, 11, 5⟩, ⟨88, 44, 22⟩, ⟨200, 100, 50⟩] := by decide

/-- V-G9, V-G10. -/
theorem test_gen_minmaxq :
    minMaxTable ⟨10, 20, 30⟩ ⟨250, 20, 0⟩ 4 = [⟨25, 20, 28⟩, ⟨70, 20, 22⟩, ⟨145, 20, 13⟩, ⟨250, 20, 0⟩]
      ∧ reds (minMaxTable ⟨255, 0, 0⟩ ⟨0, 0, 0⟩ 2) = [191, 0] := by decide

set_option maxRecDepth 20000 in
/-- V-G12, V-G17, V-G18. -/
theorem test_gen_exponential :
    reds (exponentialTable ⟨16, 0, 0⟩ 4) = [2, 4, 8, 16]
      ∧ exponentialTable ⟨0, 0, 0⟩ 3 = [⟨0, 0, 0⟩, ⟨0, 0, 0⟩, ⟨0, 0, 0⟩]
      ∧ exponentialTable ⟨200, 100, 50⟩ 3 = [⟨5, 4, 3⟩, ⟨34, 21, 13⟩, ⟨200, 100, 50⟩] := by decide

set_option maxRecDepth 20000 in
/-- V-G14: the powers of 255. -/
theorem test_gen_exponential_255 : reds (exponentialTable ⟨255, 0, 0⟩ 8) = [1, 3, 7, 15, 31, 63, 127, 255] := by decide

/-- R411, V-G8: some entries of the drone table. -/
theorem test_drone_table :
    [0, 5, 6, 10, 49, 50, 76, 98, 99].map (fun k => (reds (quadraticTable ⟨255, 0, 0⟩ 100)).getD k 0)
      = [0, 0, 1, 3, 63, 66, 151, 249, 255] := by decide

/-- V-G22: a table over the capacity halts. -/
theorem test_gen_over_capacity :
    (nextOf (exec (.genLinear Color.off 101) (inPhase .init []))).map (fun t => (t.phase, t.errCode))
      = some (.halted, .allocFail) := by decide

/-! ## The pattern engine -/

/-- V-F2 (the worked example of R329) and V-F3: the LEDs lit, and no draw left over. -/
theorem test_flash_draws :
    lit [7, 5, 2, 0, 4, 3, 9, 1, 0, 2, 5, 6, 1, 3, 10]
        = ([12, 13, 24, 36, 37, 38, 39, 44, 45, 56, 57, 58, 76, 77, 78, 84, 85, 86], 0)
      ∧ lit [0, 0, 0, 0, 0, 0, 0, 0, 0, 0, 0, 0, 0] = ([0, 16, 32, 44, 56, 68], 0) := by decide

/-- V-F5: large raw values; the two draws after the 13th are not consumed. -/
theorem test_flash_reduction :
    lit [4, 4, 5, 5, 3, 7, 4, 8, 5, 9, 6, 10, 2, 1, 1]
      = ([0, 20, 21, 32, 33, 34, 35, 48, 64, 65, 68, 69, 70], 2) := by decide

/-- V-F7: the wait of a flash of 120 microseconds. -/
theorem test_flash_wait :
    (nextOf (step { inPhase .flashWait [] with flDur := 120 })).map (fun t => (t.trace, t.tUs, t.phase))
      = some ([.hold 120, .commit (uniformPixels Color.off)], 120, .idle) := by decide

/-- V-A1. -/
theorem test_all_off :
    (nextOf (step { inPhase .allOff [] with pix := uniformPixels ⟨1, 2, 3⟩ })).map (fun t => (t.trace, t.phase))
      = some ([.commit (uniformPixels Color.off)], .idle) := by decide

/-- V-R2, V-R3. -/
theorem test_drone_entry :
    (nextOf (step (inPhase .droneEntry []))).map (fun t => (t.phase, t.trace)) = some (.droneShow, [])
      ∧ (nextOf (step (inPhase .droneEntry [0]))).map (fun t => (t.phase, t.trace, t.rx)) = some (.idle, [], [0]) := by
  decide

/-- V-R4: step 49 of the drone shows (63, 0, 0). -/
theorem test_drone_show :
    (nextOf (step { inPhase .droneShow [] with
        k := 49, table := loadTable (quadraticTable ⟨255, 0, 0⟩ 100) (Vector.replicate 100 Color.off) })).map
      (fun t => (t.trace, t.phase)) = some ([.commit (uniformPixels ⟨63, 0, 0⟩)], .droneWait) := by decide

/-- Direction, index, stop flag and phase after one DRONE_WAIT step, if its one event is the hold of `us`. -/
def waited (us : Nat) (dir : Dir) (k : Fin 100) (stop : Bool) (rx : List Byte) : Option ((Dir × Nat) × (Bool × Phase)) :=
  match nextOf (step { inPhase .droneWait rx with dir := dir, k := k, stop := stop }) with
  | some t => if t.trace = [.hold us] ∧ t.rx = rx then some ((t.dir, t.k.val), (t.stop, t.phase)) else none
  | none => none

/-- V-R5a to V-R5d. -/
theorem test_drone_wait :
    waited 33500 .asc 0 false [] = some ((.asc, 1), (false, .droneShow))
      ∧ waited 33500 .asc 99 false [] = some ((.desc, 99), (false, .droneShow))
      ∧ waited 14500 .desc 99 false [] = some ((.desc, 98), (false, .droneShow))
      ∧ waited 14500 .desc 0 false [] = some ((.asc, 0), (false, .droneShow)) := by decide

/-- V-R5e to V-R5h. -/
theorem test_drone_wait_stop :
    waited 14500 .desc 0 true [] = some ((.desc, 0), (true, .idle))
      ∧ waited 14500 .desc 0 false [0] = some ((.desc, 0), (true, .idle))
      ∧ waited 33500 .asc 10 false [0] = some ((.asc, 11), (true, .droneShow))
      ∧ waited 33500 .asc 10 true [0, 0, 0] = some ((.asc, 11), (true, .droneShow)) := by decide

/-! ## Startup -/

/-- V-I1: the `INIT` step from reset ends in IDLE with no event and `T[49]` = (63, 0, 0). -/
theorem test_init :
    (nextOf (step State.reset)).map (fun t => (t.phase, t.trace, t.table[49])) = some (.idle, [], ⟨63, 0, 0⟩) := by
  decide

/-- V-I2: with `alloc_ok` false the block halts, and its next turn is the fault. -/
theorem test_init_halts :
    (nextOf (step (State.resetWith
        ⟨{ RawConfig.default with allocOk := false }, by decide⟩ 0))).map (fun t => (t.phase, t.errCode, t.trace))
      = some (.halted, .allocFail, []) := by decide

/-- R510, R511: a block step in HALTED is the fault. -/
theorem test_halted_faults : step (inPhase .halted [0x25]) = .fault .halted := rfl

/-- The first row of the table, placed after reset, is run by the next step. -/
theorem test_placed_word :
    (nextOf (step (State.reset.withFetchWord 88 0x2530000000000000000026))).map (fun t => (t.phase, t.trace))
      = some (.allOff, [.tx 0x31]) := by decide

/-- A control word, placed after reset, is run by the next step. -/
theorem test_placed_control :
    (nextOf (step (State.reset.withFetchWord 8 (0 + 4 * 0xFF0000 + 2 ^ 50 * 4)))).map (fun t => (t.phase, reds t.genOut))
      = some (.idle, [63, 127, 191, 255]) := by decide

/-! ## Witnesses: for every statement with hypotheses, a concrete input that meets them

A witness names the statement it belongs to. Where a statement has several clauses there is one input for each, at the
boundary values of its range. -/

/-- The source's NOTE frame, `NOTE 0, "120"` (R147). -/
def note120 : List Byte := [0x25, 0x32, 0, 0x31, 0x32, 0x30, 0, 0, 0, 0, 0x26]

/-- Its duration field. -/
def dur120 : DurField := #v[0x31, 0x32, 0x30, 0, 0, 0, 0]

/-- A DRONE_OFF frame. -/
def off11 : List Byte := [0x25, 0x30, 0, 0, 0, 0, 0, 0, 0, 0, 0x26]

/-- The default configuration with a FIFO of 11 bytes. -/
def shallow : Config := ⟨{ RawConfig.default with rxDepth := some 11 }, by decide⟩

/-- The default configuration with a failing allocation. -/
def noAlloc : Config := ⟨{ RawConfig.default with allocOk := false }, by decide⟩

/-- The state after reset in a phase, with the given turns to come. -/
def withTurns (p : Phase) (rx : List Byte) (ts : List Turn) : State := { inPhase p rx with turns := ts }

theorem blockTurn_self (p : Phase) (rx : List Byte) : BlockTurn (inPhase p rx) (inPhase p rx) := .inl ⟨rfl, rfl⟩

theorem blockTurn_cons (p : Phase) (rx : List Byte) (ts : List Turn) :
    BlockTurn (withTurns p rx (.block :: ts)) (withTurns p rx ts) := .inr ⟨ts, rfl, rfl⟩

theorem witness_EveryControlWordIsAGeneratorOperation :
    ∃ w0 w1 w2 w3 : GenWord, w0.curve = 0 ∧ w1.curve = 1 ∧ w2.curve = 2 ∧ w3.curve = 3 :=
  ⟨⟨0, Color.off, Color.off, 0⟩, ⟨1, Color.off, Color.off, 0⟩, ⟨2, Color.off, Color.off, 0⟩,
    ⟨3, Color.off, Color.off, 0⟩, rfl, rfl, rfl, rfl⟩

/-- One frame for each clause: ten bytes; a bad start; a bad end; the three commands; another command. -/
theorem witness_FrameVerdictsInOrder :
    (off11.take 10).length < 11 ∧ 11 ≤ off11.length ∧ 11 ≤ note120.length
      ∧ off11[0]? = some 0x25 ∧ off11[10]? = some 0x26 ∧ off11[1]? = some 0x30 ∧ note120[1]? = some 0x32
      ∧ (off11.set 1 0x31)[1]? = some 0x31 ∧ (off11.set 1 0x33)[1]? = some 0x33
      ∧ (off11.set 0 0x24)[0]? ≠ some 0x25 ∧ (off11.set 10 0)[10]? ≠ some 0x26 := by decide

theorem witness_ElevenBytesDecodeExactlyAsEncoded : note120.length = 11 ∧ off11.length = 11 := by decide

theorem witness_DontCareBytesAreNotExamined :
    ((List.replicate 8 (0 : Byte)).length = 8 ∧ (List.replicate 8 (0xFF : Byte)).length = 8)
      ∧ dur120.toList = [0x31, 0x32, 0x30] ++ (0x00 : Byte) :: [0, 0, 0]
      ∧ (#v[0x31, 0x32, 0x30, 0, 1, 2, 3] : DurField).toList = [0x31, 0x32, 0x30] ++ (0x00 : Byte) :: [1, 2, 3] := by
  decide

/-- The largest and the smallest value. -/
theorem witness_DurationNumeralValue :
    parseDuration false #v[0x39, 0x39, 0x39, 0x39, 0x39, 0x39, 0x39] = some 9999999
      ∧ parseDuration true #v[0, 0, 0, 0, 0, 0, 0] = some 0 := by decide

/-- The bytes just outside the digits, 0x2F and 0x3A. -/
theorem witness_OtherCharactersMakeTheNumeralIllFormed :
    ∀ t : Byte, t = 0x2F ∨ t = 0x3A → ¬(0x30 ≤ t.toNat ∧ t.toNat ≤ 0x39) ∧ t ≠ 0x00 ∧ t ≠ 0x26
      ∧ (#v[0x31, t, 0, 0, 0, 0, 0] : DurField).toList = [0x31] ++ t :: [0, 0, 0, 0, 0]
      ∧ ∀ d ∈ ([0x31] : List Byte), 0x30 ≤ d.toNat ∧ d.toNat ≤ 0x39 := by
  rintro t (rfl | rfl) <;> decide

/-- The first and the last index, with the numeral of `"120"` and one of seven digits. -/
theorem witness_NoteCompletes :
    (0 : Byte).toNat ≤ 11 ∧ (11 : Byte).toNat ≤ 11
      ∧ parseDuration (inPhase .idle []).cfg.acceptEmptyDuration dur120 = some 120
      ∧ parseDuration (inPhase .idle []).cfg.acceptEmptyDuration #v[0x39, 0x39, 0x39, 0x39, 0x39, 0x39, 0x39]
        = some 9999999 := by decide

theorem witness_NoteIndexOverElevenIsRejected : 11 < (12 : Byte).toNat ∧ 11 < (255 : Byte).toNat := by decide

theorem witness_IllFormedDurationIsRejected :
    (0 : Byte).toNat ≤ 11 ∧ (11 : Byte).toNat ≤ 11
      ∧ durationWellFormed (inPhase .idle []).cfg.acceptEmptyDuration #v[0x31, 0x32, 0x41, 0, 0, 0, 0] = false := by
  decide

/-- The premises of GenLinear-, GenQuadratic-, GenMinMaxQ- and GenExponentialBuildsItsTable: N = 0, 1 and 100 can be
built; N = 101 cannot, nor any table when the allocation fails. -/
theorem witness_GenBuildsItsTable :
    (inPhase .init []).cfg.allocOk = true ∧ 0 ≤ (inPhase .init []).cfg.tableCapacity
      ∧ 1 ≤ (inPhase .init []).cfg.tableCapacity ∧ 100 ≤ (inPhase .init []).cfg.tableCapacity
      ∧ (inPhase .init []).cfg.tableCapacity < 101 ∧ (State.resetWith noAlloc 0).cfg.allocOk = false := by decide

theorem witness_CurvesAreMonotone :
    (1 : Nat) ≤ 3 ∧ 3 < 4 ∧ (quadraticTable ⟨255, 0, 0⟩ 4)[1]? = some ⟨63, 0, 0⟩
      ∧ (quadraticTable ⟨255, 0, 0⟩ 4)[3]? = some ⟨255, 0, 0⟩
      ∧ (minMaxTable ⟨10, 20, 30⟩ ⟨250, 20, 0⟩ 4)[1]? = some ⟨70, 20, 22⟩
      ∧ (minMaxTable ⟨10, 20, 30⟩ ⟨250, 20, 0⟩ 4)[3]? = some ⟨250, 20, 0⟩ := by decide

/-- A decode step in each form of a block turn. -/
theorem witness_DecodeStepRunsTheInstruction :
    BlockTurn (withTurns .idle note120 [.block]) (withTurns .idle note120 [])
      ∧ (withTurns .idle note120 []).phase = .idle ∧ (withTurns .idle note120 []).rx ≠ []
      ∧ decodeFrame ((withTurns .idle note120 []).rx.take 11) = .ok (.note 0 dur120)
      ∧ BlockTurn (inPhase .idle off11) (inPhase .idle off11) ∧ (inPhase .idle off11).rx ≠ []
      ∧ decodeFrame ((inPhase .idle off11).rx.take 11) = .ok .droneOff :=
  ⟨blockTurn_cons _ _ _, rfl, by decide, by decide, blockTurn_self _ _, by decide, by decide⟩

/-- The complete result of the startup word, and a halt. -/
theorem witness_InitStepRunsTheControlWord :
    (∃ s1, BlockTurn (inPhase .init []) (inPhase .init [])
        ∧ exec (decodeControl (inPhase .init []).genWord) (inPhase .init []) = .next s1
        ∧ s1.genOut.length = 100 ∧ s1.phase = .init)
      ∧ ∃ s1, exec (decodeControl (State.resetWith noAlloc 0).genWord) (State.resetWith noAlloc 0) = .next s1
        ∧ s1.phase = .halted :=
  ⟨⟨_, blockTurn_self _ _, rfl, by decide, rfl⟩, ⟨_, rfl, rfl⟩⟩

/-- One frame for each cause: a short read, index 12, an ill-formed numeral. -/
theorem witness_RejectedFrameIsSilentlyDropped :
    BlockTurn (inPhase .idle [0x25]) (inPhase .idle [0x25])
      ∧ (∃ e, decodeFrame ((inPhase .idle [0x25]).rx.take 11) = .error e ∧ ErrCode.frameShort = frameErrorCode e)
      ∧ (∃ idx dur, decodeFrame ((inPhase .idle (note120.set 2 12)).rx.take 11) = .ok (.note idx dur)
          ∧ 11 < idx.toNat)
      ∧ ∃ idx dur, decodeFrame ((inPhase .idle (note120.set 5 0x41)).rx.take 11) = .ok (.note idx dur)
          ∧ idx.toNat ≤ 11 ∧ parseDuration true dur = none :=
  ⟨blockTurn_self _ _, ⟨.short, by decide, rfl⟩, ⟨12, dur120, by decide, by decide⟩,
    ⟨0, #v[0x31, 0x32, 0x41, 0, 0, 0, 0], by decide, by decide, by decide⟩⟩

/-- An acceptable frame and one that is not. -/
theorem witness_AckExactlyForAcceptedFrames :
    BlockTurn (inPhase .idle off11) (inPhase .idle off11) ∧ (inPhase .idle off11).rx ≠ []
      ∧ AcceptedFrame (inPhase .idle off11).cfg ((inPhase .idle off11).rx.take 11)
      ∧ ¬AcceptedFrame (inPhase .idle [0x25]).cfg ((inPhase .idle [0x25]).rx.take 11) := by
  refine ⟨blockTurn_self _ _, by decide, ⟨.droneOff, by decide, by decide⟩, ?_⟩
  rintro ⟨i, h, -⟩
  have short : decodeFrame ((inPhase .idle [0x25]).rx.take 11) = .error .short := by decide
  exact Except.noConfusion rfl rfl (heq_of_eq (short.symm.trans h))

theorem witness_BytesAfterTheFirstFrameAreFlushed :
    BlockTurn (inPhase .idle (off11 ++ note120)) (inPhase .idle (off11 ++ note120)) ∧ off11.length = 11
      ∧ (inPhase .idle (off11 ++ note120)).rx = off11 ++ note120 := ⟨blockTurn_self _ _, by decide, rfl⟩

/-- The source's frame split after its fifth byte (spec/95_test_vectors.md P5). -/
theorem witness_SplitFrameIsRejectedTwice :
    ∃ s : State, s.phase = .idle ∧ s.rx = [] ∧ note120.take 5 ≠ [] ∧ note120.drop 5 ≠ []
      ∧ (note120.take 5).length + (note120.drop 5).length = 11
      ∧ s.turns = (note120.take 5).map Turn.host ++ Turn.block :: ((note120.drop 5).map Turn.host ++ [Turn.block]) :=
  ⟨withTurns .idle [] ((note120.take 5).map Turn.host ++ Turn.block :: ((note120.drop 5).map Turn.host ++ [Turn.block])),
    rfl, rfl, by decide, by decide, by decide, rfl⟩

theorem witness_IdleWithoutInputWaits :
    BlockTurn (withTurns .idle [] [.block]) (withTurns .idle [] []) ∧ (withTurns .idle [] []).phase = .idle
      ∧ (withTurns .idle [] []).rx = [] := ⟨blockTurn_cons _ _ _, rfl, rfl⟩

theorem witness_NoDecodeOutsideIdle :
    ∃ t, BlockTurn (inPhase .droneWait off11) (inPhase .droneWait off11) ∧ (inPhase .droneWait off11).phase ≠ .idle
      ∧ step (inPhase .droneWait off11) = .next t := ⟨_, blockTurn_self _ _, by decide, rfl⟩

/-- An unbounded FIFO; one of 11 bytes with room for one more, and one that is full. -/
theorem witness_HostSendAppendsOrLoses :
    (∃ s : State, s.turns = .host 0x41 :: [] ∧ s.cfg.rxDepth = none)
      ∧ (∃ s : State, s.turns = .host 0x41 :: [] ∧ s.cfg.rxDepth = some 11 ∧ s.rx.length < 11)
      ∧ ∃ s : State, s.turns = .host 0x41 :: [] ∧ s.cfg.rxDepth = some 11 ∧ 11 ≤ s.rx.length :=
  ⟨⟨withTurns .idle [] [.host 0x41], rfl, rfl⟩,
    ⟨{ State.resetWith shallow 0 with rx := off11.take 10, turns := [.host 0x41] }, rfl, rfl, by decide⟩,
    ⟨{ State.resetWith shallow 0 with rx := off11, turns := [.host 0x41] }, rfl, rfl, by decide⟩⟩

/-- The premises of AllOffStepClearsAndCommits, FlashShowComposesFromTheDraws, FlashWaitHoldsAndClears and
DroneShowLightsAllLeds: a block turn in each of the four phases. -/
theorem witness_handler_steps :
    ∀ p ∈ [Phase.allOff, .flashShow, .flashWait, .droneShow],
      BlockTurn (withTurns p [] [.block]) (withTurns p [] []) ∧ (withTurns p [] []).phase = p :=
  fun _ _ => ⟨blockTurn_cons _ _ _, rfl⟩

theorem witness_DroneOffTwiceIsIdempotent :
    (inPhase .idle []).phase = .idle ∧ (inPhase .idle []).turns = [] ∧ off11.length = 11
      ∧ decodeFrame off11 = .ok .droneOff := by decide

theorem witness_FlashLightsTheSumOfItsCounts :
    ∃ s t : State, BlockTurn s s ∧ s.phase = .flashShow ∧ s.flColor ≠ ⟨0, 0, 0⟩ ∧ step s = .next t :=
  ⟨{ inPhase .flashShow [] with flColor := ⟨255, 0, 0⟩ }, _, .inl ⟨rfl, rfl⟩, rfl, by decide, rfl⟩

/-- A byte arrives before the flash and one during its hold. -/
theorem witness_AcceptedNoteEventsInOrder :
    ∃ s : State, s.phase = .idle
      ∧ s.turns = .block :: (([0x41] : List Byte).map Turn.host ++ .block :: (([0x42] : List Byte).map Turn.host ++ [.block]))
      ∧ s.rx.length = 11 ∧ decodeFrame s.rx = .ok (.note 0 dur120) ∧ (0 : Byte).toNat ≤ 11
      ∧ parseDuration s.cfg.acceptEmptyDuration dur120 = some 120 ∧ s.cfg.rxDepth = none :=
  ⟨withTurns .idle note120 [.block, .host 0x41, .block, .host 0x42, .block], rfl, rfl, rfl, by decide, by decide,
    by decide, rfl⟩

theorem witness_DroneEntryReturnsOrStarts :
    BlockTurn (inPhase .droneEntry [0]) (inPhase .droneEntry [0]) ∧ (inPhase .droneEntry [0]).rx ≠ []
      ∧ BlockTurn (inPhase .droneEntry []) (inPhase .droneEntry []) ∧ (inPhase .droneEntry []).rx = [] :=
  ⟨blockTurn_self _ _, by decide, blockTurn_self _ _, rfl⟩

/-- A drone step at each boundary: ASC 98, ASC 99, DESC 1, DESC 0 with `stop` set by the poll, DESC 0 without. -/
theorem witness_DroneWaitHoldsPollsAdvances :
    ∀ x ∈ [(Dir.asc, (98 : Fin 100), ([] : List Byte)), (.asc, 99, []), (.desc, 1, []), (.desc, 0, [0]), (.desc, 0, [])],
      ∃ s : State, BlockTurn s s ∧ s.phase = .droneWait ∧ s.dir = x.1 ∧ s.k = x.2.1 ∧ s.rx = x.2.2 :=
  fun x _ => ⟨{ inPhase .droneWait x.2.2 with dir := x.1, k := x.2.1 }, .inl ⟨rfl, rfl⟩, rfl, rfl, rfl, rfl⟩

theorem witness_DronePassStructure :
    (inPhase .droneShow []).phase = .droneShow ∧ (inPhase .droneShow []).dir = .asc ∧ (inPhase .droneShow []).k = 0
      ∧ (inPhase .droneShow []).stop = false ∧ (inPhase .droneShow []).rx = [] ∧ (inPhase .droneShow []).turns = [] := by
  decide

/-- The premise of DroneRepeatsWithoutInput and UndisturbedDroneGoesOn, in each of the three phases, with the empty schedule
and with one that names the block. -/
theorem witness_DroneRepeatsWithoutInput :
    (DroneUndisturbed (inPhase .droneEntry []) ∧ DroneUndisturbed (inPhase .droneShow [])
        ∧ DroneUndisturbed (inPhase .droneWait []))
      ∧ DroneUndisturbed (withTurns .droneWait [] [.block, .block]) := by
  refine ⟨⟨⟨.inl rfl, rfl, ?_⟩, ⟨.inr ⟨.inl rfl, rfl⟩, rfl, ?_⟩, ⟨.inr ⟨.inr rfl, rfl⟩, rfl, ?_⟩⟩,
    ⟨.inr ⟨.inr rfl, rfl⟩, rfl, ?_⟩⟩ <;> decide

/-- The two ends of each half of a pass, with the steps that are left. -/
theorem witness_DroneReturnsAtTheEndOfThePass :
    ∀ x ∈ [(Dir.asc, (0 : Fin 100), 400), (.asc, 99, 202), (.desc, 99, 200), (.desc, 0, 2)],
      ∃ s : State, s.phase = .droneShow ∧ s.rx ≠ [] ∧ s.turns = [] ∧ (s.dir = .desc → x.2.2 = 2 * (s.k.val + 1))
        ∧ (s.dir = .asc → x.2.2 = 2 * (100 - s.k.val) + 200) := by
  intro x hx
  refine ⟨{ inPhase .droneShow [0] with dir := x.1, k := x.2.1 }, rfl, by simp [inPhase], rfl, ?_⟩
  fin_cases hx <;> decide

/-- The startup that succeeds and the one that halts. -/
theorem witness_InitStepBuildsTheDroneTableOrHalts :
    (∃ s : State, BlockTurn s s ∧ s.phase = .init ∧ s.genWord = startupWord s.cfg ∧ s.cfg.allocOk = true
        ∧ 100 ≤ s.cfg.tableCapacity)
      ∧ ∃ s : State, BlockTurn s s ∧ s.phase = .init ∧ s.genWord = startupWord s.cfg ∧ s.cfg.allocOk = false :=
  ⟨⟨State.resetWith Config.default 0, .inl ⟨rfl, rfl⟩, rfl, rfl, rfl, by decide⟩,
    ⟨State.resetWith noAlloc 0, .inl ⟨rfl, rfl⟩, rfl, rfl, rfl⟩⟩

theorem witness_OnlyAHaltedBlockStops :
    ∃ s s0 : State, BlockTurn s s0 ∧ s0.phase = .halted ∧ step s = .fault .halted :=
  ⟨_, _, blockTurn_self .halted [], rfl, rfl⟩

theorem witness_HaltedOnlyTakesHostBytes :
    ∃ t, (withTurns .halted [] [.host 0x41]).phase = .halted ∧ step (withTurns .halted [] [.host 0x41]) = .next t :=
  ⟨_, rfl, rfl⟩

/-- Well-formed parameters, and ill-formed ones: a FIFO of 10 bytes. -/
theorem witness_BootRefusesIllFormedConfigurations :
    RawConfig.default.wf = true ∧ RawConfig.wf { RawConfig.default with rxDepth := some 10 } = false := by decide

/-- The invariant holds of the machine after reset, which steps to a next state. -/
theorem witness_StepKeepsTheInvariant : Inv (State.resetWith Config.default 0)
    ∧ ∃ t, step (State.resetWith Config.default 0) = .next t := by
  refine ⟨⟨?_, ?_, by decide, rfl, ?_, rfl, ?_, ?_, ?_, ?_⟩, ⟨_, rfl⟩⟩
  · intro d h; simp [State.resetWith, Config.default, RawConfig.default] at h
  · intro h; simp [State.resetWith] at h
  · intro b h; simp [State.resetWith] at h
  · intro h; exact absurd rfl h
  · intro h; simp [State.resetWith] at h
  · intro _; rfl
  · intro h; simp [State.resetWith] at h

/-- One step after reset the phase is IDLE. -/
theorem witness_IdlePixelsAreOff :
    ∃ t : State, run 1 { State.resetWith Config.default 0 with turns := [] } = .next t
      ∧ t.phase = .idle := ⟨_, rfl, rfl⟩

/-- The premises of PhaseTransitionsAreTheRules, TablesAndConfigurationAreNeverRewritten, OnlyFlashShowDraws,
ClockAdvancesByTheHolds and PixelChangesAreCommittedOnce: a step that answers a next state in a phase that is neither INIT
nor FLASH_SHOW. -/
theorem witness_next_step :
    ∃ t, step (inPhase .flashWait []) = .next t ∧ (inPhase .flashWait []).phase ≠ .init
      ∧ (inPhase .flashWait []).phase ≠ .flashShow := ⟨_, rfl, by decide, by decide⟩

theorem witness_OnlyDecodeStepsSend :
    ∃ t, step (inPhase .idle off11) = .next t ∧ bytesSent t.trace ≠ bytesSent (inPhase .idle off11).trace :=
  ⟨_, rfl, by decide⟩

/-- Two states that differ in `err_code`, `fcount`, the latch and the counter. -/
theorem witness_UnobservableStateHasNoInfluence :
    ∃ s t s' : State, s ≠ t ∧ ObsEq s t ∧ step s = .next s' :=
  ⟨inPhase .idle off11, { inPhase .idle off11 with
      errCode := .frameCmd, fcount := 3, cmd := ⟨.note, 5, 7⟩, freeCount := 9 }, _,
    fun h => absurd (congrArg State.freeCount h) (by decide),
    ⟨rfl, rfl, rfl, rfl, rfl, rfl, rfl, rfl, rfl, rfl, rfl, rfl, rfl, rfl, rfl⟩, rfl⟩

/-- The first and the last reserved phase code. -/
theorem witness_PhaseAndErrorCodes : 9 ≤ (9 : BitVec 4).toNat ∧ 9 ≤ (15 : BitVec 4).toNat := by decide

end Sys2Proof.Tests
end

section
/-! PROOFS. The host's turn (spec/10_state.md R31). -/

namespace Sys2Proof.Machine

open Sys2Proof

/-- An unbounded FIFO always has room. -/
@[simp] theorem fifoHasRoom_unbounded (n : Nat) : fifoHasRoom none n = true := rfl

/-- A FIFO of capacity `d` has room below `d` bytes. -/
@[simp] theorem fifoHasRoom_bounded (d n : Nat) : fifoHasRoom (some d) n = decide (n < d) := rfl

/-- With room, `HostSend` appends its byte. -/
theorem hostSend_of_room (b : Byte) {s : State} (h : fifoHasRoom s.cfg.rxDepth s.rx.length = true) :
    hostSend b s = { s with rx := s.rx ++ [b] } := by
  rcases hostSend_cases b s with ⟨_, hs⟩ | ⟨hfull, _⟩
  · exact hs
  · simp [hfull] at h

/-- Without room, `HostSend` loses its byte. -/
theorem hostSend_of_full (b : Byte) {s : State} (h : fifoHasRoom s.cfg.rxDepth s.rx.length = false) :
    hostSend b s = s := by
  rcases hostSend_cases b s with ⟨hroom, _⟩ | ⟨_, hs⟩
  · simp [hroom] at h
  · exact hs

/-- The host's turn is its `HostSend` at the state with the turn taken, whatever the phase (R31, log 1). -/
theorem step_of_hostTurn {s : State} {b : Byte} {rest : List Turn} (h : s.turns = .host b :: rest) :
    step s = .next (hostSend b { s with turns := rest }) :=
  step_of_done (by simp [fetch, h])

/-- Settles O29: the host's turn is a `HostSend` in every phase, which appends or loses by whether the FIFO has room. -/
theorem hostSendAppendsOrLoses : Obligations.HostSendAppendsOrLoses := by
  intro s b rest hturn
  rw [step_of_hostTurn hturn]
  refine ⟨fun hdepth => ?unbounded, fun d hdepth => ⟨fun hroom => ?room, fun hfull => ?full⟩⟩
  case unbounded => rw [hostSend_of_room b (by simp [hdepth])]
  case room => rw [hostSend_of_room b (by simp [hdepth, hroom])]
  case full => rw [hostSend_of_full b (by simp [hdepth, hfull])]

end Sys2Proof.Machine
end

section
/-! PROOFS. The value of a parsed duration is bounded, so its 32-bit register holds it (spec/30_encoding.md R136, R137). -/

namespace Sys2Proof.Machine

open Sys2Proof

/-- The end marker is not a digit, so it ends every numeral. -/
theorem isDigit_endMarker : isDigit endMarker = false := by decide

theorem digitValue_lt_ten {b : Byte} (h : isDigit b = true) : digitValue b < 10 := by
  simp only [isDigit, decide_eq_true_eq] at h
  simp only [digitValue]
  omega

/-- A digit makes the loop take it into the value and go on. -/
theorem parseDigits_digit (ae : Bool) {b : Byte} (rest : List Byte) (v : Nat) (any : Bool) (h : isDigit b = true) :
    parseDigits ae (b :: rest) v any = parseDigits ae rest (10 * v + digitValue b) true := by
  simp [parseDigits, h]

/-- A byte that is not a digit ends the loop: the value so far, or an error. -/
theorem parseDigits_nonDigit {ae : Bool} {b : Byte} {rest : List Byte} {v : Nat} {any : Bool} {r : Nat}
    (h : isDigit b = false) (hr : parseDigits ae (b :: rest) v any = some r) : r = v := by
  simp only [parseDigits, h, Bool.false_eq_true, if_false, Option.ite_none_right_eq_some, Option.some.injEq] at hr
  exact hr.2.symm

/-- Every digit left multiplies the bound of the value by ten. -/
theorem parseDigits_lt {ae : Bool} {digits : List Byte} {v : Nat} {any : Bool} {r : Nat}
    (hr : parseDigits ae (digits ++ [endMarker]) v any = some r) : r < (v + 1) * 10 ^ digits.length := by
  induction digits generalizing v any with
  | nil =>
    have hrv : r = v := parseDigits_nonDigit isDigit_endMarker hr
    simp [hrv]
  | cons b rest ih =>
    rw [List.cons_append] at hr
    cases hb : isDigit b with
    | true =>
      rw [parseDigits_digit ae _ v any hb] at hr
      have hd : digitValue b < 10 := digitValue_lt_ten hb
      calc r < (10 * v + digitValue b + 1) * 10 ^ rest.length := ih hr
        _ ≤ ((v + 1) * 10) * 10 ^ rest.length := Nat.mul_le_mul_right _ (by omega)
        _ = (v + 1) * 10 ^ (b :: rest).length := by rw [List.length_cons, Nat.pow_succ']; ring
    | false =>
      have hrv : r = v := parseDigits_nonDigit hb hr
      calc r < v + 1 := by omega
        _ ≤ (v + 1) * 10 ^ (b :: rest).length := Nat.le_mul_of_pos_right _ (by positivity)

/-- Seven digits give at most 9,999,999 (R137). -/
theorem parseDuration_le {ae : Bool} {dur : DurField} {v : Nat} (h : parseDuration ae dur = some v) : v ≤ 9999999 := by
  have hlt := parseDigits_lt h
  rw [Vector.length_toList] at hlt
  omega

/-- The 32-bit duration registers hold a parsed duration without loss. -/
theorem toNat_ofNat_of_parseDuration {ae : Bool} {dur : DurField} {v : Nat} (h : parseDuration ae dur = some v) :
    (BitVec.ofNat 32 v).toNat = v := by
  have hle := parseDuration_le h
  rw [BitVec.toNat_ofNat, Nat.mod_eq_of_lt (by omega)]

end Sys2Proof.Machine
end

section
/-! PROOFS. The events of an accepted NOTE frame, with the host sending between the block's steps (spec/20_memory.md
R106, 41_pattern_engine.md R320, R326, R327). -/

namespace Sys2Proof.Machine

open Sys2Proof

/-! ## The host's turns before a block step -/

/-- `HostSend` writes the FIFO and nothing else, and appends to an unbounded one (10_state.md R31). -/
theorem hostSend_shape (b : Byte) (s : State) :
    ∃ rx, (s.cfg.rxDepth = none → rx = s.rx ++ [b]) ∧ hostSend b s = { s with rx := rx } := by
  rcases hostSend_cases b s with ⟨_, hs⟩ | ⟨hfull, hs⟩
  · exact ⟨_, fun _ => rfl, hs⟩
  · exact ⟨s.rx, fun hd => by simp [hd] at hfull, hs⟩

/-- A row of host turns writes the FIFO and the schedule, and nothing else; an unbounded FIFO takes every byte in order
(10_state.md R31). -/
theorem run_hostTurns (bytes : List Byte) {rest : List Turn} {s : State} (hturns : s.turns = bytes.map Turn.host ++ rest) :
    ∃ rx, (s.cfg.rxDepth = none → rx = s.rx ++ bytes)
      ∧ run bytes.length s = .next { s with turns := rest, rx := rx } := by
  induction bytes generalizing s with
  | nil => exact ⟨s.rx, by simp, by rw [← show s.turns = rest from hturns]; rfl⟩
  | cons b bytes ih =>
    obtain ⟨rx1, hrx1, hsend⟩ := hostSend_shape b { s with turns := bytes.map Turn.host ++ rest }
    have hstep : step s = .next { s with turns := bytes.map Turn.host ++ rest, rx := rx1 } := by
      rw [← hsend]
      exact step_of_hostTurn hturns
    obtain ⟨rx, hrx, hrun⟩ := ih (s := { s with turns := bytes.map Turn.host ++ rest, rx := rx1 }) rfl
    exact ⟨rx, fun hd => by simpa [hrx1 hd] using hrx hd, (run_succ _ hstep).trans hrun⟩

/-- Host turns and then a handler's block step: the handler runs at the state the host left, which differs in the FIFO and
the schedule only. -/
theorem run_hostTurns_handler {handler : State → State} (bytes : List Byte) {rest : List Turn} {s : State}
    (hturns : s.turns = bytes.map Turn.host ++ .block :: rest)
    (hblock : ∀ u : State, u.phase = s.phase → fetchBlock u = .done (.next (handler u))) :
    ∃ rx, (s.cfg.rxDepth = none → rx = s.rx ++ bytes)
      ∧ run (bytes.length + 1) s = .next (handler { s with turns := rest, rx := rx }) := by
  obtain ⟨rx, hrx, hrun⟩ := run_hostTurns bytes hturns
  have hturn : BlockTurn { s with turns := .block :: rest, rx := rx } { s with turns := rest, rx := rx } :=
    .inr ⟨rest, rfl, rfl⟩
  have hstep : step { s with turns := .block :: rest, rx := rx } = .next (handler { s with turns := rest, rx := rx }) := by
    rw [step_of_blockTurn hturn, hblock { s with turns := rest, rx := rx } rfl]
    rfl
  exact ⟨rx, hrx, by rw [run_add 1 hrun, run_succ 0 hstep, run_zero]⟩

/-! ## The decode step and the two flash steps -/

/-- The decode step of an acceptable NOTE: the read, the latch, the acknowledgment, and `FLASH_SHOW`
(40_frame_decoder.md R214). -/
theorem step_of_acceptedNote {s s0 : State} {idx : Byte} {dur : DurField} {v : Nat} (hturn : BlockTurn s s0)
    (hphase : s0.phase = .idle) (hrx : s0.rx ≠ []) (hdec : decodeFrame (s0.rx.take 11) = .ok (.note idx dur))
    (hidx : idx.toNat < 12) (hdur : parseDuration s0.cfg.acceptEmptyDuration dur = some v) :
    step s = .next (accept .flashShow (latchNote ⟨idx.toNat, hidx⟩ v (readFrame s0))) := by
  simp only [step_of_decode hturn hphase hrx, hdec]
  rw [retire_of_frame hdec]
  rcases execNote_cases idx dur (readFrame s0) with ⟨_, w, hw, he⟩ | ⟨_, hnone, _⟩ | ⟨hover, _⟩
  · rw [readFrame_cfg, hdur] at hw
    cases hw
    exact he
  · simp [hdur] at hnone
  · omega

theorem fetchBlock_flashShow {s : State} (h : s.phase = .flashShow) : fetchBlock s = .done (.next (flashShowStep s)) := by
  simp only [fetchBlock, h]

theorem fetchBlock_flashWait {s : State} (h : s.phase = .flashWait) : fetchBlock s = .done (.next (flashWaitStep s)) := by
  simp only [fetchBlock, h]

/-- The FLASH_SHOW step commits one frame, lit in the flash color or `OFF` at each LED (R320, R325). -/
theorem flashShowStep_shape (s : State) : ∃ (shown : LedFrame) (p : PrngState),
    (∀ i : LedIndex, shown[i.val] = s.flColor ∨ shown[i.val] = Color.off)
      ∧ flashShowStep s
        = { s with pix := shown, prng := p, trace := s.trace ++ [.commit shown], phase := .flashWait } := by
  refine ⟨composeFlash s.flColor (selectFlash prngDraw s.cfg s.prng).1, _, fun i => ?_, rfl⟩
  rw [composeFlash_getElem]
  exact ite_eq_or_eq _ _ _

/-- The whole FLASH_WAIT step (R326). -/
theorem flashWaitStep_eq (s : State) : flashWaitStep s = { s with
    tUs := s.tUs + s.flDur.toNat
    pix := uniformPixels Color.off
    trace := s.trace ++ [.hold s.flDur.toNat, .commit (uniformPixels Color.off)]
    phase := .idle } := by
  simp [flashWaitStep, commit, clearPixels, hold]

/-- A flash from `FLASH_SHOW` to `IDLE` with the host sending before each of its two steps: the commit of the composed
frame, the hold and the commit of all `OFF` are its only events (R320, R326, R327). -/
theorem run_flash (late later : List Byte) {s : State} (hphase : s.phase = .flashShow)
    (hturns : s.turns = late.map Turn.host ++ .block :: (later.map Turn.host ++ [.block])) :
    ∃ (t : State) (shown : LedFrame), (∀ i : LedIndex, shown[i.val] = s.flColor ∨ shown[i.val] = Color.off)
      ∧ run (late.length + later.length + 2) s = .next t
      ∧ t.trace = s.trace ++ [.commit shown, .hold s.flDur.toNat, .commit (uniformPixels Color.off)]
      ∧ t.phase = .idle ∧ t.pix = uniformPixels Color.off ∧ t.tUs = s.tUs + s.flDur.toNat
      ∧ (s.cfg.rxDepth = none → t.rx = s.rx ++ late ++ later) := by
  obtain ⟨rx1, hrx1, hrun1⟩ :=
    run_hostTurns_handler late hturns fun _ hu => fetchBlock_flashShow (hu.trans hphase)
  obtain ⟨shown, p, hshown, hshow⟩ :=
    flashShowStep_shape { s with turns := later.map Turn.host ++ [.block], rx := rx1 }
  rw [hshow] at hrun1
  obtain ⟨rx2, hrx2, hrun2⟩ :=
    run_hostTurns_handler later (s := { s with
        turns := later.map Turn.host ++ [.block], rx := rx1, pix := shown, prng := p
        trace := s.trace ++ [.commit shown], phase := .flashWait })
      rfl fun _ hu => fetchBlock_flashWait hu
  rw [flashWaitStep_eq] at hrun2
  have hrun := (run_add _ hrun1).trans hrun2
  rw [show late.length + 1 + (later.length + 1) = late.length + later.length + 2 by omega] at hrun
  refine ⟨_, shown, hshown, hrun, ?_, rfl, rfl, rfl, fun hd => ?_⟩
  · simp
  · rw [← hrx1 hd]
    exact hrx2 hd

/-- Settles O35: the decode step acknowledges and hands the color and the duration to a flash (`step_of_acceptedNote`),
and the flash's events are in order whatever the host sends (`run_flash`). -/
theorem acceptedNoteEventsInOrder : Obligations.AcceptedNoteEventsInOrder := by
  intro s idx dur v late later hi hphase hturns hlen hdec hdur
  have hidx : idx.toNat < 12 := by omega
  have hpending : s.rx ≠ [] := List.ne_nil_of_length_pos (by omega)
  have hframe : decodeFrame (s.rx.take 11) = .ok (.note idx dur) := by rwa [List.take_of_length_le hlen.le]
  have hdecode := step_of_acceptedNote (.inr ⟨_, hturns, rfl⟩) hphase hpending hframe hidx hdur
  obtain ⟨t, shown, hshown, hrun, htrace, hidle, hpix, htime, hrx⟩ :=
    run_flash late later (s := accept .flashShow (latchNote ⟨idx.toNat, hidx⟩ v
      (readFrame { s with turns := late.map Turn.host ++ .block :: (later.map Turn.host ++ [.block]) })))
      rfl (by simp)
  simp only [accept_flDur, latchNote_flDur, toNat_ofNat_of_parseDuration hdur] at htrace htime
  refine ⟨t, shown, uniformPixels Color.off, fun i => uniformPixels_getElem _ _ i.isLt, fun i => ?_,
    (run_succ _ hdecode).trans hrun, ?_, hidle, hpix, ?_, fun hd => ?_⟩
  · simpa [noteColor, Color.off] using hshown i
  · simpa [ackByte] using htrace
  · simpa using htime
  · simpa [hd] using hrx

end Sys2Proof.Machine
end

section
/-! PROOFS. The frame decoder's verdicts and the bytes it does not examine (spec/40_frame_decoder.md R203 to R206,
30_encoding.md R139, R141). -/

namespace Sys2Proof.Machine

open Sys2Proof

/-! ## The decoder on short and on whole frames -/

/-- An offset that was read holds the byte at that place of the list. -/
theorem byteAt_eq_getElem {bytes : List Byte} {j : Nat} (h : j < bytes.length) : byteAt bytes j = bytes[j] :=
  List.getD_eq_getElem bytes 0 h

/-- A short read is rejected before any byte is looked at (R203). -/
theorem decodeFrame_of_short {bytes : List Byte} (h : bytes.length < 11) : decodeFrame bytes = .error .short :=
  if_pos h

/-- With eleven bytes the decoder is the chain of checks of R204 to R206 on the bytes themselves. -/
theorem decodeFrame_of_whole {bytes : List Byte} (h : 11 ≤ bytes.length) :
    decodeFrame bytes =
      if bytes[0] ≠ 0x25 then .error .badStart
      else if bytes[10] ≠ 0x26 then .error .badEnd
      else if bytes[1] = 0x30 then .ok .droneOff
      else if bytes[1] = 0x31 then .ok .droneOn
      else if bytes[1] = 0x32 then .ok (.note bytes[2]
        #v[bytes[3], bytes[4], bytes[5], bytes[6], bytes[7], bytes[8], bytes[9]])
      else .error .badCmd := by
  have hbyte (j : Nat) (hj : j < 11) : byteAt bytes j = bytes[j] := byteAt_eq_getElem (by omega)
  simp only [decodeFrame, if_neg (Nat.not_lt.mpr h), durField, hbyte, Nat.reduceLT, startMarker, endMarker, cmdDroneOff,
    cmdDroneOn, cmdNote]

/-- Settles O4: each verdict is one branch of the chain of checks. -/
theorem frameVerdictsInOrder : Obligations.FrameVerdictsInOrder := by
  intro bytes
  refine ⟨decodeFrame_of_short, fun h => ?_⟩
  rw [decodeFrame_of_whole h]
  refine ⟨fun hstart => ?badStart, fun hstart hend => ?badEnd, fun hstart hend =>
    ⟨fun hcmd => ?droneOff, fun hcmd => ?droneOn, fun hcmd => ?note, fun hoff hon hnote => ?badCmd⟩⟩
  case badStart => rw [if_pos hstart]
  case badEnd => rw [if_neg (not_not_intro hstart), if_pos hend]
  all_goals rw [if_neg (not_not_intro hstart), if_neg (not_not_intro hend)]
  case droneOff => rw [if_pos hcmd]
  case droneOn => simp [hcmd]
  case note => simp [hcmd]
  case badCmd => rw [if_neg hoff, if_neg hon, if_neg hnote]

/-! ## The bytes the decoder does not examine -/

/-- But for a NOTE, the decoder examines the number of bytes and the offsets 0, 1 and 10 only (R141). -/
theorem decodeFrame_congr {bytes bytes' : List Byte} (hlen : bytes.length = bytes'.length)
    (hstart : byteAt bytes 0 = byteAt bytes' 0) (hcmd : byteAt bytes 1 = byteAt bytes' 1)
    (hend : byteAt bytes 10 = byteAt bytes' 10) (hnote : byteAt bytes' 1 ≠ cmdNote) :
    decodeFrame bytes = decodeFrame bytes' := by
  simp only [decodeFrame, hlen, hstart, hcmd, hend, if_neg hnote]

/-- Two frames of one command other than NOTE decode alike, whatever stands at their offsets 2..9. -/
theorem decodeFrame_padding_congr (start cmd e : Byte) {x x' : List Byte} (hx : x.length = 8) (hx' : x'.length = 8)
    (hcmd : cmd ≠ cmdNote) : decodeFrame ([start, cmd] ++ x ++ [e]) = decodeFrame ([start, cmd] ++ x' ++ [e]) := by
  have hend {y : List Byte} (hy : y.length = 8) : byteAt ([start, cmd] ++ y ++ [e]) 10 = e := by
    rw [byteAt_eq_getElem (by simp [hy]), List.getElem_append_right (by simp [hy])]
    simp
  exact decodeFrame_congr (by simp [hx, hx']) rfl rfl ((hend hx).trans (hend hx').symm) hcmd

end Sys2Proof.Machine
end

section
/-! PROOFS. The duration numeral: a run of digits, its terminator and its value (spec/30_encoding.md R136 to R138,
R141). -/

namespace Sys2Proof.Machine

open Sys2Proof

/-! ## Digits and terminators -/

theorem isDigit_iff {b : Byte} : isDigit b = true ↔ 0x30 ≤ b.toNat ∧ b.toNat ≤ 0x39 := decide_eq_true_iff

theorem isTerminator_iff {b : Byte} : isTerminator b = true ↔ b = 0x00 ∨ b = 0x26 := decide_eq_true_iff

/-- A terminator is no digit, so it ends the run. -/
theorem isDigit_of_isTerminator {b : Byte} (h : isTerminator b = true) : isDigit b = false := by
  rcases isTerminator_iff.mp h with rfl | rfl <;> decide

/-- The ASCII digit of a number below ten. -/
def asciiDigit (d : Nat) : Byte := BitVec.ofNat 8 (0x30 + d)

theorem toNat_asciiDigit {d : Nat} (h : d < 10) : (asciiDigit d).toNat = 0x30 + d := by
  rw [asciiDigit, BitVec.toNat_ofNat, Nat.mod_eq_of_lt (by omega)]

theorem isDigit_asciiDigit {d : Nat} (h : d < 10) : isDigit (asciiDigit d) = true := by
  rw [isDigit_iff, toNat_asciiDigit h]
  omega

theorem digitValue_asciiDigit {d : Nat} (h : d < 10) : digitValue (asciiDigit d) = d := by
  rw [digitValue, toNat_asciiDigit h]
  omega

theorem asciiDigit_digitValue {b : Byte} (h : isDigit b = true) : asciiDigit (digitValue b) = b := by
  apply BitVec.eq_of_toNat_eq
  rw [toNat_asciiDigit (digitValue_lt_ten h), digitValue]
  have := isDigit_iff.mp h
  omega

/-- Writing numbers below ten as ASCII digits and reading them back is the identity. -/
theorem map_digitValue_asciiDigit {digits : List Nat} (h : ∀ d ∈ digits, d < 10) :
    (digits.map asciiDigit).map digitValue = digits := by
  rw [List.map_map]
  exact (List.map_congr_left fun d hd => digitValue_asciiDigit (h d hd)).trans (List.map_id _)

/-- Reading a run of ASCII digits and writing its numbers again is the identity. -/
theorem map_asciiDigit_digitValue {run : List Byte} (h : ∀ b ∈ run, isDigit b = true) :
    (run.map digitValue).map asciiDigit = run := by
  rw [List.map_map]
  exact (List.map_congr_left fun b hb => asciiDigit_digitValue (h b hb)).trans (List.map_id _)

/-! ## The loop over a run of digits -/

/-- The decimal value of a run of ASCII digits, the most significant first (R136). -/
def decimalValue (run : List Byte) : Nat := Nat.ofDigits 10 (run.map digitValue).reverse

/-- The loop's accumulator is the decimal value. -/
theorem decimalValue_eq_foldl (run : List Byte) :
    decimalValue run = run.foldl (fun v b => 10 * v + digitValue b) 0 := by
  rw [decimalValue, Nat.ofDigits_eq_foldr, List.foldr_reverse, List.foldl_map]
  simp only [Nat.cast_id, Nat.add_comm]

/-- The loop takes a whole run of digits into its value. -/
theorem parseDigits_run (ae : Bool) {run : List Byte} (rest : List Byte) (v : Nat) (any : Bool)
    (h : ∀ b ∈ run, isDigit b = true) :
    parseDigits ae (run ++ rest) v any =
      parseDigits ae rest (run.foldl (fun v b => 10 * v + digitValue b) v) (any || !run.isEmpty) := by
  induction run generalizing v any with
  | nil => simp
  | cons b run ih =>
    obtain ⟨hb, hrun⟩ := List.forall_mem_cons.mp h
    rw [List.cons_append, parseDigits_digit ae _ v any hb, ih _ _ hrun]
    simp

/-- A byte that is no digit ends the loop: with the value so far if it is a terminator and a digit was read or none is
needed, and with an error otherwise. -/
theorem parseDigits_stop (ae : Bool) {t : Byte} (rest : List Byte) (v : Nat) (any : Bool) (h : isDigit t = false) :
    parseDigits ae (t :: rest) v any = if isTerminator t && (any || ae) then some v else none := by
  simp [parseDigits, h]

/-! ## The numeral of a field -/

/-- A field that is a run of digits up to its end or to a byte that is no digit: the numeral is well formed exactly when
that byte is a terminator and an empty run is allowed, and the value is the run's. -/
theorem parseDuration_run {ae : Bool} {dur : DurField} {run rest : List Byte} {v : Nat}
    (hdur : dur.toList = run ++ rest) (hrun : ∀ b ∈ run, isDigit b = true)
    (hrest : ∀ t ∈ rest.head?, isDigit t = false) :
    parseDuration ae dur = some v ↔
      (∀ t ∈ rest.head?, isTerminator t = true) ∧ (run = [] → ae = true) ∧ v = decimalValue run := by
  have hallowed : (run = [] → ae = true) ↔ ((false || !run.isEmpty) || ae) = true := by
    cases run <;> simp
  rw [parseDuration, hdur, List.append_assoc, parseDigits_run ae _ _ _ hrun, ← decimalValue_eq_foldl, hallowed]
  cases rest with
  | nil =>
    rw [List.nil_append, parseDigits_stop ae _ _ _ isDigit_endMarker]
    have hend : isTerminator endMarker = true := by decide
    simp [hend, eq_comm (a := v)]
  | cons t rest =>
    rw [List.cons_append, parseDigits_stop ae _ _ _ (hrest t rfl)]
    simp [eq_comm (a := v), and_assoc]

/-- The bytes of a field are a run of digits and what follows it. -/
theorem exists_digit_run (bytes : List Byte) :
    ∃ run rest, bytes = run ++ rest ∧ (∀ b ∈ run, isDigit b = true) ∧ ∀ t ∈ rest.head?, isDigit t = false := by
  refine ⟨bytes.takeWhile isDigit, bytes.dropWhile isDigit, List.takeWhile_append_dropWhile.symm,
    fun b hb => List.mem_takeWhile_imp hb, fun t ht => ?_⟩
  have hstop := List.head?_dropWhile_not isDigit bytes
  rw [Option.mem_def.mp ht] at hstop
  simpa using hstop

/-- A field parses exactly when it is a run of digits ended by a terminator or by the end of the field, to the run's
decimal value (R136). -/
theorem parseDuration_eq_some_iff {ae : Bool} {dur : DurField} {v : Nat} :
    parseDuration ae dur = some v ↔ ∃ run rest, dur.toList = run ++ rest ∧ (∀ b ∈ run, isDigit b = true)
      ∧ (∀ t ∈ rest.head?, isTerminator t = true) ∧ (run = [] → ae = true) ∧ v = decimalValue run := by
  constructor
  · intro h
    obtain ⟨run, rest, hdur, hrun, hrest⟩ := exists_digit_run dur.toList
    exact ⟨run, rest, hdur, hrun, (parseDuration_run hdur hrun hrest).mp h⟩
  · rintro ⟨run, rest, hdur, hrun, hterm, hnumeral⟩
    exact (parseDuration_run hdur hrun fun t ht => isDigit_of_isTerminator (hterm t ht)).mpr ⟨hterm, hnumeral⟩

/-- What ends a run, written as a test of the next byte or as a case split over what is left. -/
theorem head?_isTerminator_iff {rest : List Byte} :
    (∀ t ∈ rest.head?, isTerminator t = true) ↔
      rest = [] ∨ ∃ t rest', rest = t :: rest' ∧ (t = 0x00 ∨ t = 0x26) := by
  cases rest with
  | nil => simp
  | cons t rest => simp [isTerminator_iff]

/-- Settles O7: the run of digit bytes and the list of their numbers determine each other, so
`parseDuration_eq_some_iff` is the first part; the bound was proved for the registers. -/
theorem durationNumeralValue : Obligations.DurationNumeralValue := by
  intro ae dur v
  refine ⟨?_, fun h => ⟨parseDuration_le h, toNat_ofNat_of_parseDuration h⟩⟩
  rw [parseDuration_eq_some_iff]
  constructor
  · rintro ⟨run, rest, hdur, hrun, hterm, hempty, hv⟩
    refine ⟨run.map digitValue, rest, fun d hd => ?_, ?_, head?_isTerminator_iff.mp hterm,
      fun hnil => hempty (List.map_eq_nil_iff.mp hnil), hv⟩
    · obtain ⟨b, hb, rfl⟩ := List.mem_map.mp hd
      exact digitValue_lt_ten (hrun b hb)
    · exact hdur.trans (congrArg (· ++ rest) (map_asciiDigit_digitValue hrun).symm)
  · rintro ⟨digits, rest, hdigits, hdur, hterm, hempty, hv⟩
    refine ⟨digits.map asciiDigit, rest, hdur, fun b hb => ?_, head?_isTerminator_iff.mpr hterm,
      fun hnil => hempty (List.map_eq_nil_iff.mp hnil), ?_⟩
    · obtain ⟨d, hd, rfl⟩ := List.mem_map.mp hb
      exact isDigit_asciiDigit (hdigits d hd)
    · rw [decimalValue, map_digitValue_asciiDigit hdigits, hv]

/-- Settles O8: the byte after the run is no digit, and for a value it would have to be a terminator
(`parseDuration_run`). -/
theorem otherCharactersMakeTheNumeralIllFormed : Obligations.OtherCharactersMakeTheNumeralIllFormed := by
  intro ae dur run rest t hrun hdigit hzero hmarker hdur
  have ht : isDigit t = false := Bool.eq_false_iff.mpr fun h => hdigit (isDigit_iff.mp h)
  refine Option.eq_none_iff_forall_ne_some.mpr fun v hv => ?_
  obtain ⟨hterm, -, -⟩ :=
    (parseDuration_run hdur (fun b hb => isDigit_iff.mpr (hrun b hb)) (by simpa using ht)).mp hv
  rcases isTerminator_iff.mp (hterm t rfl) with h | h
  · exact hzero h
  · exact hmarker h

/-! ## The bytes after the terminator -/

/-- The loop does not look past a byte that is no digit, whatever it read before. -/
theorem parseDigits_tail_congr (ae : Bool) {t : Byte} (ht : isDigit t = false) (before tail tail' : List Byte) (v : Nat)
    (any : Bool) : parseDigits ae (before ++ t :: tail) v any = parseDigits ae (before ++ t :: tail') v any := by
  induction before generalizing v any with
  | nil => exact (parseDigits_stop ae tail v any ht).trans (parseDigits_stop ae tail' v any ht).symm
  | cons b before ih =>
    rw [List.cons_append, List.cons_append]
    cases hb : isDigit b with
    | true => rw [parseDigits_digit ae _ v any hb, parseDigits_digit ae _ v any hb, ih]
    | false => rw [parseDigits_stop ae _ v any hb, parseDigits_stop ae _ v any hb]

/-- Fields that agree up to a byte that is no digit have the same numeral. -/
theorem parseDuration_tail_congr (ae : Bool) {dur dur' : DurField} {before tail tail' : List Byte} {t : Byte}
    (ht : isDigit t = false) (hdur : dur.toList = before ++ t :: tail) (hdur' : dur'.toList = before ++ t :: tail') :
    parseDuration ae dur = parseDuration ae dur' := by
  simp only [parseDuration, hdur, hdur', List.append_assoc, List.cons_append]
  exact parseDigits_tail_congr ae ht before _ _ 0 false

/-- A NOTE means what its index and its parsed numeral say; it does not depend on the field in any other way. -/
theorem exec_note_congr (idx : Byte) {dur dur' : DurField} {s : State}
    (h : parseDuration s.cfg.acceptEmptyDuration dur = parseDuration s.cfg.acceptEmptyDuration dur') :
    exec (.note idx dur) s = exec (.note idx dur') s := by
  simp only [exec, execNote, h]

/-- Settles O6: a drone command reads the markers and the command byte only (`decodeFrame_padding_congr`), and the
numeral's loop stops at its terminator (`parseDuration_tail_congr`). -/
theorem dontCareBytesAreNotExamined : Obligations.DontCareBytesAreNotExamined := by
  constructor
  · rintro c x x' hx hx' (rfl | rfl) e
    · exact decodeFrame_padding_congr 0x25 0x30 e hx hx' (by decide)
    · exact decodeFrame_padding_congr 0x25 0x31 e hx hx' (by decide)
  · intro idx dur dur' digits rest rest' t s ht hdur hdur'
    exact exec_note_congr idx
      (parseDuration_tail_congr _ (isDigit_of_isTerminator (isTerminator_iff.mpr ht)) hdur hdur')

end Sys2Proof.Machine
end

section
/-! PROOFS. The parser of a duration field and the declared well-formedness agree, and the two errors of a NOTE
(spec/30_encoding.md R136, 40_frame_decoder.md R212, R213). -/

namespace Sys2Proof.Machine

open Sys2Proof

/-! ## Well-formed fields parse -/

/-- A field cut at the end of its digit run is well formed under the same two conditions as its numeral
(`parseDuration_run`). -/
theorem durationWellFormed_run {ae : Bool} {dur : DurField} {run rest : List Byte} (hdur : dur.toList = run ++ rest)
    (hrun : ∀ b ∈ run, isDigit b = true) (hrest : ∀ t ∈ rest.head?, isDigit t = false) :
    durationWellFormed ae dur = true ↔ (∀ t ∈ rest.head?, isTerminator t = true) ∧ (run = [] → ae = true) := by
  have hlen : run.length + rest.length = 7 := by rw [← List.length_append, ← hdur, Vector.length_toList]
  have hallowed : (ae || decide (rest.length < 7)) = true ↔ (run = [] → ae = true) := by
    have hempty : rest.length < 7 ↔ run ≠ [] := by
      rw [← List.length_pos_iff]
      omega
    rw [Bool.or_eq_true, decide_eq_true_iff, hempty]
    tauto
  have hafter : (dur.toList.dropWhile fun b => decide (0x30 ≤ b.toNat ∧ b.toNat ≤ 0x39)) = rest := by
    change dur.toList.dropWhile isDigit = rest
    rw [hdur, List.dropWhile_append_of_pos hrun]
    cases rest with
    | nil => rfl
    | cons t rest => exact List.dropWhile_cons_of_neg (by simp [hrest t rfl])
  simp only [durationWellFormed, hafter, Bool.and_eq_true, hallowed]
  cases rest with
  | nil => simp
  | cons t rest => simp [isTerminator_iff]

/-- A field has a numeral exactly when it is well formed: both are read off its digit run. -/
theorem exists_parseDuration_iff {ae : Bool} {dur : DurField} :
    (∃ v, parseDuration ae dur = some v) ↔ durationWellFormed ae dur = true := by
  obtain ⟨run, rest, hdur, hrun, hrest⟩ := exists_digit_run dur.toList
  simp [parseDuration_run hdur hrun hrest, durationWellFormed_run hdur hrun hrest]

theorem parseDuration_eq_none_iff {ae : Bool} {dur : DurField} :
    parseDuration ae dur = none ↔ durationWellFormed ae dur = false := by
  rw [← Bool.not_eq_true, ← exists_parseDuration_iff, Option.eq_none_iff_forall_ne_some, not_exists]

/-! ## The two errors of a NOTE -/

/-- A decode-time error writes `err_code` and goes to IDLE (60_exceptions.md R502). -/
theorem raise_eq_of_ne {e : ErrCode} (h : e ≠ .allocFail) (s : State) :
    raise e s = { s with errCode := e, phase := .idle } := by
  rw [raise, if_neg h]

/-- The index is checked first (R212). -/
theorem exec_note_of_index_over {idx : Byte} (dur : DurField) (s : State) (h : 11 < idx.toNat) :
    exec (.note idx dur) s = .next (raise .noteIndex s) := by
  rcases execNote_cases idx dur s with ⟨hvalid, _⟩ | ⟨hvalid, _⟩ | ⟨_, he⟩
  · omega
  · omega
  · exact he

/-- With a valid index the numeral decides (R213). -/
theorem exec_note_of_no_numeral {idx : Byte} {dur : DurField} {s : State} (h : idx.toNat ≤ 11)
    (hdur : parseDuration s.cfg.acceptEmptyDuration dur = none) :
    exec (.note idx dur) s = .next (raise .durationParse s) := by
  rcases execNote_cases idx dur s with ⟨_, v, hv, _⟩ | ⟨_, _, he⟩ | ⟨hover, _⟩
  · simp [hdur] at hv
  · exact he
  · omega

/-- Settles O13: the index error, which `raise` takes to IDLE. -/
theorem noteIndexOverElevenIsRejected : Obligations.NoteIndexOverElevenIsRejected := by
  intro s idx dur hover
  rw [exec_note_of_index_over dur s hover, raise_eq_of_ne (by decide)]

/-- Settles O14: an ill-formed field has no numeral (`parseDuration_eq_none_iff`). -/
theorem illFormedDurationIsRejected : Obligations.IllFormedDurationIsRejected := by
  intro s idx dur hvalid hill
  rw [exec_note_of_no_numeral hvalid (parseDuration_eq_none_iff.mpr hill), raise_eq_of_ne (by decide)]

end Sys2Proof.Machine
end

section
/-! PROOFS. The decode step accepts a frame and acknowledges it, or rejects it and drops it (spec/40_frame_decoder.md R207
to R209, R216, 60_exceptions.md R502 to R504). -/

namespace Sys2Proof.Machine

open Sys2Proof

/-! ## Acceptable frames and the causes of a rejection -/

/-- The causes for which a decode step rejects the bytes it read, with their codes (60_exceptions.md R501, R504). -/
inductive RejectedAs (c : Config) (bytes : List Byte) : ErrCode → Prop where
  | frame (e : FrameError) (h : decodeFrame bytes = .error e) : RejectedAs c bytes (frameErrorCode e)
  | noteIndex (idx : Byte) (dur : DurField) (h : decodeFrame bytes = .ok (.note idx dur)) (hover : 11 < idx.toNat) :
      RejectedAs c bytes .noteIndex
  | durationParse (idx : Byte) (dur : DurField) (h : decodeFrame bytes = .ok (.note idx dur)) (hvalid : idx.toNat ≤ 11)
      (hdur : parseDuration c.acceptEmptyDuration dur = none) : RejectedAs c bytes .durationParse

/-- No rejection halts the block. -/
theorem RejectedAs.ne_allocFail {c : Config} {bytes : List Byte} {code : ErrCode} (h : RejectedAs c bytes code) :
    code ≠ .allocFail := by
  cases h with
  | frame e _ => cases e <;> decide
  | noteIndex => decide
  | durationParse => decide

/-- A NOTE is well formed exactly when its index is valid and its field has a numeral. -/
theorem note_wf_iff {c : Config} {idx : Byte} {dur : DurField} :
    Instr.wf c (.note idx dur) = true ↔ idx.toNat ≤ 11 ∧ ∃ v, parseDuration c.acceptEmptyDuration dur = some v := by
  rw [exists_parseDuration_iff, Instr.wf, noteIndexInRange, Bool.and_eq_true, decide_eq_true_iff]

/-- Bytes that are no acceptable frame have a cause of rejection. -/
theorem exists_rejectedAs {c : Config} {bytes : List Byte} (h : ¬AcceptedFrame c bytes) :
    ∃ code, RejectedAs c bytes code := by
  rcases decodeFrame_cases bytes with ⟨e, hdec⟩ | hdec | hdec | hdec
  · exact ⟨_, .frame e hdec⟩
  · exact absurd ⟨_, hdec, rfl⟩ h
  · exact absurd ⟨_, hdec, rfl⟩ h
  · by_cases hvalid : (byteAt bytes 2).toNat ≤ 11
    · refine ⟨_, .durationParse _ _ hdec hvalid (Option.eq_none_iff_forall_ne_some.mpr fun v hv => ?_)⟩
      exact h ⟨_, hdec, note_wf_iff.mpr ⟨hvalid, v, hv⟩⟩
    · exact ⟨_, .noteIndex _ _ hdec (by omega)⟩

/-! ## The decode step on each -/

/-- A decode step that reads an instruction runs it at the state after the read (R209). -/
theorem step_of_decoded {s s0 : State} {i : Instr} (hturn : BlockTurn s s0) (hphase : s0.phase = .idle)
    (hrx : s0.rx ≠ []) (hdec : decodeFrame (s0.rx.take 11) = .ok i) : step s = exec i (readFrame s0) := by
  simp only [step_of_decode hturn hphase hrx, hdec]
  exact retire_of_frame hdec _

/-- A decode step takes the error of its cause at the state after the read (R207). -/
theorem step_of_rejected {s s0 : State} {code : ErrCode} (hturn : BlockTurn s s0) (hphase : s0.phase = .idle)
    (hrx : s0.rx ≠ []) (h : RejectedAs s0.cfg (s0.rx.take 11) code) : step s = .next (raise code (readFrame s0)) := by
  cases h with
  | frame e hdec => simp only [step_of_decode hturn hphase hrx, hdec]
  | noteIndex idx dur hdec hover =>
    rw [step_of_decoded hturn hphase hrx hdec, exec_note_of_index_over dur _ hover]
  | durationParse idx dur hdec hvalid hdur =>
    rw [step_of_decoded hturn hphase hrx hdec, exec_note_of_no_numeral hvalid (by rwa [readFrame_cfg])]

/-- A decode step accepts an acceptable frame into a handler's phase, at a state in which the FIFO is empty and no event
has been added yet (R208, R209). -/
theorem step_of_accepted {s s0 : State} (hturn : BlockTurn s s0) (hphase : s0.phase = .idle) (hrx : s0.rx ≠ [])
    (h : AcceptedFrame s0.cfg (s0.rx.take 11)) :
    ∃ (handler : Phase) (u : State), handler ≠ .idle ∧ u.rx = [] ∧ u.trace = s0.trace
      ∧ step s = .next (accept handler u) := by
  obtain ⟨i, hdec, hwf⟩ := h
  rcases decodeFrame_cases (s0.rx.take 11) with ⟨e, hcase⟩ | hcase | hcase | hcase
  · rw [hcase] at hdec
    cases hdec
  · exact ⟨.allOff, latchKind .droneOff (readFrame s0), by decide, by simp, by simp,
      step_of_decoded hturn hphase hrx hcase⟩
  · exact ⟨.droneEntry, latchKind .droneOn (readFrame s0), by decide, by simp, by simp,
      step_of_decoded hturn hphase hrx hcase⟩
  · rw [hcase] at hdec
    cases hdec
    obtain ⟨hvalid, v, hv⟩ := note_wf_iff.mp hwf
    exact ⟨.flashShow, latchNote ⟨_, Nat.lt_succ_of_le hvalid⟩ v (readFrame s0), by decide, by simp, by simp,
      step_of_acceptedNote hturn hphase hrx hcase _ hv⟩

/-- Settles O23: the error is taken at the state after the read (`step_of_rejected`), and neither the read nor `raise`
writes more than the fields listed. -/
theorem rejectedFrameIsSilentlyDropped : Obligations.RejectedFrameIsSilentlyDropped := by
  intro s s0 code hturn hphase hrx hcause
  have hrej : RejectedAs s0.cfg (s0.rx.take 11) code := by
    rcases hcause with ⟨e, hdec, rfl⟩ | ⟨idx, dur, hdec, hover, rfl⟩ | ⟨idx, dur, hdec, hvalid, hdur, rfl⟩
    · exact .frame e hdec
    · exact .noteIndex idx dur hdec hover
    · exact .durationParse idx dur hdec hvalid hdur
  obtain ⟨fr, n, hn, hfr, hread⟩ := readFrame_shape s0
  refine ⟨fr, n, hn, hfr, ?_⟩
  rw [step_of_rejected hturn hphase hrx hrej, raise_eq_of_ne hrej.ne_allocFail, hread]

/-- Settles O24: a decode step either accepts (`step_of_accepted`) or rejects (`step_of_rejected`). -/
theorem ackExactlyForAcceptedFrames : Obligations.AckExactlyForAcceptedFrames := by
  intro s s0 hturn hphase hrx
  by_cases hacc : AcceptedFrame s0.cfg (s0.rx.take 11)
  · obtain ⟨handler, u, hhandler, hempty, htrace, hstep⟩ := step_of_accepted hturn hphase hrx hacc
    exact ⟨_, hstep, hempty, fun _ => ⟨by rw [accept_trace, htrace, ackByte], hhandler⟩, fun hrej => absurd hacc hrej⟩
  · obtain ⟨code, hrej⟩ := exists_rejectedAs hacc
    exact ⟨_, step_of_rejected hturn hphase hrx hrej, by simp, fun h => absurd h hacc,
      fun _ => ⟨by simp, by simp [hrej.ne_allocFail]⟩⟩

end Sys2Proof.Machine
end

section
/-! PROOFS. Outside `IDLE` the block decodes nothing (spec/40_frame_decoder.md R215): what the startup and the handler steps
leave unchanged. -/

namespace Sys2Proof.Machine

open Sys2Proof

/-! ## The bytes a trace sends -/

@[simp] theorem bytesSent_append (l l' : List Event) : bytesSent (l ++ l') = bytesSent l ++ bytesSent l' := by
  induction l with
  | nil => rfl
  | cons e l ih => cases e <;> simp [bytesSent, ih]

@[simp] theorem bytesSent_nil : bytesSent [] = [] := rfl

@[simp] theorem bytesSent_commit (p : LedFrame) (l : List Event) : bytesSent (.commit p :: l) = bytesSent l := rfl

@[simp] theorem bytesSent_hold (us : Nat) (l : List Event) : bytesSent (.hold us :: l) = bytesSent l := rfl

/-! ## What only the decode step writes -/

/-- From `s` to `t` nothing has changed that only a decode step changes (10_state.md R37): no byte was read or sent, and
the frame buffer, the latch and the flash registers are as they were. -/
structure DecodesNothing (s t : State) : Prop where
  rx : t.rx = s.rx
  frame : t.frame = s.frame
  fcount : t.fcount = s.fcount
  cmd : t.cmd = s.cmd
  flColor : t.flColor = s.flColor
  flDur : t.flDur = s.flDur
  sent : bytesSent t.trace = bytesSent s.trace

theorem decodesNothing_raise (e : ErrCode) (s : State) : DecodesNothing s (raise e s) := by
  constructor <;> simp

/-- The startup step stores a table at most. -/
theorem decodesNothing_retire (g : List Color) (s : State) : DecodesNothing s (retire { s with genOut := g }) := by
  unfold retire
  split <;> exact ⟨rfl, rfl, rfl, rfl, rfl, rfl, rfl⟩

theorem decodesNothing_allOffStep (s : State) : DecodesNothing s (allOffStep s) := by
  constructor <;> simp [allOffStep]

theorem decodesNothing_droneEntryStep (s : State) : DecodesNothing s (droneEntryStep s) := by
  unfold droneEntryStep
  split <;> exact ⟨rfl, rfl, rfl, rfl, rfl, rfl, rfl⟩

theorem decodesNothing_droneShowStep (s : State) : DecodesNothing s (droneShowStep s) := by
  constructor <;> simp [droneShowStep]

theorem decodesNothing_droneWaitStep (s : State) : DecodesNothing s (droneWaitStep s) := by
  constructor <;> simp [droneWaitStep_eq]

theorem decodesNothing_flashShowStep (s : State) : DecodesNothing s (flashShowStep s) := by
  constructor <;> simp [flashShowStep]

theorem decodesNothing_flashWaitStep (s : State) : DecodesNothing s (flashWaitStep s) := by
  constructor <;> simp [flashWaitStep]

/-- Every block step outside `IDLE` is a startup or a handler step, and none of them decodes. -/
theorem BlockStep.decodesNothing {s t : State} (h : BlockStep s t) (hphase : s.phase ≠ .idle) : DecodesNothing s t := by
  cases h with
  | wait hp _ | drop hp _ | droneOff hp _ | droneOn hp _ | note hp _ => exact absurd hp hphase
  | initFail => exact decodesNothing_raise _ s
  | initDone => exact decodesNothing_retire _ s
  | allOff => exact decodesNothing_allOffStep s
  | droneEntry => exact decodesNothing_droneEntryStep s
  | droneShow => exact decodesNothing_droneShowStep s
  | droneWait => exact decodesNothing_droneWaitStep s
  | flashShow => exact decodesNothing_flashShowStep s
  | flashWait => exact decodesNothing_flashWaitStep s

/-- Settles O28: a block turn that answers a next state is a `BlockStep`, and outside `IDLE` it decodes nothing. -/
theorem noDecodeOutsideIdle : Obligations.NoDecodeOutsideIdle := by
  intro s s0 t hturn hphase hstep
  rw [step_of_blockTurn hturn] at hstep
  obtain ⟨hrx, hframe, hfcount, hcmd, hcolor, hdur, hsent⟩ := (blockStep_cases hstep).decodesNothing hphase
  exact ⟨hrx, hframe, hfcount, hcmd, hcolor, hdur, hsent⟩

end Sys2Proof.Machine
end

section
/-! PROOFS. The all-off step, the flash's wait and the drone's steps, each as a whole next state; and the drone that nobody
disturbs (spec/41_pattern_engine.md R300, R326, R340 to R343, R346). -/

namespace Sys2Proof.Machine

open Sys2Proof

/-! ## The handler steps -/

/-- A block turn that completes without an instruction ends where the block's step says. -/
theorem step_of_blockTurn_done {s s0 t : State} (hturn : BlockTurn s s0) (h : fetchBlock s0 = .done (.next t)) :
    step s = .next t := by
  rw [step_of_blockTurn hturn, h]
  rfl

theorem fetchBlock_allOff {s : State} (h : s.phase = .allOff) : fetchBlock s = .done (.next (allOffStep s)) := by
  simp only [fetchBlock, h]

theorem fetchBlock_droneEntry {s : State} (h : s.phase = .droneEntry) :
    fetchBlock s = .done (.next (droneEntryStep s)) := by
  simp only [fetchBlock, h]

theorem fetchBlock_droneShow {s : State} (h : s.phase = .droneShow) :
    fetchBlock s = .done (.next (droneShowStep s)) := by
  simp only [fetchBlock, h]

theorem fetchBlock_droneWait {s : State} (h : s.phase = .droneWait) :
    fetchBlock s = .done (.next (droneWaitStep s)) := by
  simp only [fetchBlock, h]

/-- The whole ALL_OFF step (R300). -/
theorem allOffStep_eq (s : State) : allOffStep s = { s with
    pix := uniformPixels Color.off
    trace := s.trace ++ [.commit (uniformPixels Color.off)]
    phase := .idle } := rfl

/-- DRONE_ENTRY with a byte pending returns (R340). -/
theorem droneEntryStep_of_pending {s : State} (h : s.rx ≠ []) : droneEntryStep s = { s with phase := .idle } :=
  if_pos (List.length_pos_iff.mpr h)

/-- DRONE_ENTRY with an empty FIFO starts a pass (R340). -/
theorem droneEntryStep_of_empty {s : State} (h : s.rx = []) :
    droneEntryStep s = { s with stop := false, dir := .asc, k := 0, phase := .droneShow } :=
  if_neg (by simp [rxCount, h])

/-- Settles O30: the whole ALL_OFF step is `allOffStep_eq`. -/
theorem allOffStepClearsAndCommits : Obligations.AllOffStepClearsAndCommits := by
  intro s s0 hturn hphase
  refine ⟨uniformPixels Color.off, fun i => uniformPixels_getElem _ _ i.isLt, ?_⟩
  rw [step_of_blockTurn_done hturn (fetchBlock_allOff hphase), allOffStep_eq]

/-- Settles O34: the whole FLASH_WAIT step is `flashWaitStep_eq`. -/
theorem flashWaitHoldsAndClears : Obligations.FlashWaitHoldsAndClears := by
  intro s s0 hturn hphase
  refine ⟨uniformPixels Color.off, fun i => uniformPixels_getElem _ _ i.isLt, ?_⟩
  rw [step_of_blockTurn_done hturn (fetchBlock_flashWait hphase), flashWaitStep_eq]

/-- Settles O36: the two branches of DRONE_ENTRY, by whether the FIFO is empty. -/
theorem droneEntryReturnsOrStarts : Obligations.DroneEntryReturnsOrStarts := by
  intro s s0 hturn hphase
  rw [step_of_blockTurn_done hturn (fetchBlock_droneEntry hphase)]
  exact ⟨fun hpending => by rw [droneEntryStep_of_pending hpending],
    fun hempty => by rw [droneEntryStep_of_empty hempty]⟩

/-! ## Where a drone step leads, branch by branch (R342, R343) -/

theorem nextDroneStep_up {k : Fin 100} (stop : Bool) (h : k.val < 99) :
    nextDroneStep .asc k stop = (.asc, ⟨k.val + 1, by omega⟩, .droneShow) := dif_pos h

theorem nextDroneStep_turn {k : Fin 100} (stop : Bool) (h : k.val = 99) :
    nextDroneStep .asc k stop = (.desc, k, .droneShow) := dif_neg (by omega)

theorem nextDroneStep_down {k : Fin 100} (stop : Bool) (h : 0 < k.val) :
    nextDroneStep .desc k stop = (.desc, ⟨k.val - 1, by omega⟩, .droneShow) := if_pos h

theorem nextDroneStep_return {k : Fin 100} (h : k.val = 0) : nextDroneStep .desc k true = (.desc, k, .idle) :=
  if_neg (by omega)

theorem nextDroneStep_newPass {k : Fin 100} (h : k.val = 0) : nextDroneStep .desc k false = (.asc, 0, .droneShow) :=
  if_neg (by omega)

/-- With `stop` clear the drone goes on from every point of a pass (R343). -/
theorem nextDroneStep_phase_of_not_stop (d : Dir) (k : Fin 100) : (nextDroneStep d k false).2.2 = .droneShow := by
  rcases nextDroneStep_cases d k false with ⟨_, _, e⟩ | ⟨_, _, e⟩ | ⟨_, _, e⟩ | ⟨_, _, hstop, _⟩ | ⟨_, _, _, e⟩
  case inr.inr.inr.inl => cases hstop
  all_goals rw [e]

/-- Settles O38: the hold and the poll are `droneWaitStep_eq`, and each clause is one branch of `nextDroneStep`. -/
theorem droneWaitHoldsPollsAdvances : Obligations.DroneWaitHoldsPollsAdvances := by
  intro s s0 hturn hphase
  have hstep := step_of_blockTurn_done hturn (fetchBlock_droneWait hphase)
  rw [droneWaitStep_eq] at hstep
  refine ⟨_, _, fun hasc => by rw [hasc]; rfl, fun hdesc => by rw [hdesc]; rfl, ?poll, _, _, _, hstep,
    fun hdir hk => ?up, fun hdir hk => ?turn, fun hdir hk => ?down, fun hdir hk hstop => ?passEnd,
    fun hdir hk hstop => ?newPass⟩
  case poll => simp [List.length_pos_iff]
  case up => simp [hdir, nextDroneStep_up _ hk]
  case turn => simp [hdir, nextDroneStep_turn _ hk, hk]
  case down => simp [hdir, nextDroneStep_down _ hk]
  case passEnd => simp [hdir, hstop, nextDroneStep_return hk, hk]
  case newPass => simp [hdir, hstop, nextDroneStep_newPass hk]

/-! ## The undisturbed drone (R346) -/

/-- With only the block to move, the next turn is the block's, and taking it disturbs nobody. -/
theorem DroneUndisturbed.exists_blockTurn {s : State} (h : DroneUndisturbed s) :
    ∃ s0, BlockTurn s s0 ∧ DroneUndisturbed s0 := by
  obtain ⟨hphase, hrx, hturns⟩ := h
  cases ht : s.turns with
  | nil => exact ⟨s, .inl ⟨ht, rfl⟩, hphase, hrx, hturns⟩
  | cons x rest =>
    have hx : x = .block := hturns x (by simp [ht])
    subst hx
    exact ⟨_, .inr ⟨rest, ht, rfl⟩, hphase, hrx, fun y hy => hturns y (by simp [ht, hy])⟩

/-- Each of the three drone steps leads into the pass, because the poll finds no byte and `stop` stays clear. -/
theorem DroneUndisturbed.fetchBlock_done {s : State} (h : DroneUndisturbed s) :
    ∃ t, fetchBlock s = .done (.next t) ∧ DroneUndisturbed t ∧ (t.phase = .droneShow ∨ t.phase = .droneWait) := by
  obtain ⟨hentry | ⟨hshow | hwait, hstop⟩, hrx, hturns⟩ := h
  · refine ⟨_, fetchBlock_droneEntry hentry, ?_⟩
    rw [droneEntryStep_of_empty hrx]
    exact ⟨⟨.inr ⟨.inl rfl, rfl⟩, hrx, hturns⟩, .inl rfl⟩
  · exact ⟨_, fetchBlock_droneShow hshow, ⟨.inr ⟨.inr rfl, hstop⟩, hrx, hturns⟩, .inr rfl⟩
  · have hnext : (droneWaitStep s).phase = .droneShow := by
      simp [droneWaitStep_eq, hstop, hrx, nextDroneStep_phase_of_not_stop]
    have hclear : (droneWaitStep s).stop = false := by simp [droneWaitStep_eq, hstop, hrx]
    exact ⟨_, fetchBlock_droneWait hwait,
      ⟨.inr ⟨.inl hnext, hclear⟩, by simp [droneWaitStep_eq, hrx], by simpa [droneWaitStep_eq] using hturns⟩, .inl hnext⟩

/-- The undisturbed drone takes its next step, into the pass. -/
theorem DroneUndisturbed.step_next {s : State} (h : DroneUndisturbed s) :
    ∃ t, step s = .next t ∧ DroneUndisturbed t ∧ (t.phase = .droneShow ∨ t.phase = .droneWait) := by
  obtain ⟨s0, hturn, h0⟩ := h.exists_blockTurn
  obtain ⟨t, hblock, ht⟩ := h0.fetchBlock_done
  exact ⟨t, step_of_blockTurn_done hturn hblock, ht⟩

/-- Settles O40, by induction on the number of steps: each one is `DroneUndisturbed.step_next`. -/
theorem droneRepeatsWithoutInput : Obligations.DroneRepeatsWithoutInput := by
  intro s m
  induction m generalizing s with
  | zero => exact fun h => ⟨s, rfl, h⟩
  | succ m ih =>
    intro h
    obtain ⟨u, hstep, hu, _⟩ := h.step_next
    rw [run_succ m hstep]
    exact ih u hu

end Sys2Proof.Machine
end

section
/-! PROOFS. The draws of one flash in their order, and the frame they compose (spec/41_pattern_engine.md R320 to R325). -/

namespace Sys2Proof.Machine

open Sys2Proof

/-! ## The stream of draws -/

/-- The state after one draw more. -/
theorem prngAfter_succ (j : Nat) (p : PrngState) : prngAfter (j + 1) p = (prngDraw (prngAfter j p)).2 := by
  induction j generalizing p with
  | zero => rfl
  | succ j ih => exact ih (prngDraw p).2

/-- The draw after `j` draws is draw number `j`. -/
theorem prngDraw_prngAfter (j : Nat) (p : PrngState) : prngDraw (prngAfter j p) = (rawDraw p j, prngAfter (j + 1) p) :=
  Prod.ext rfl (prngAfter_succ j p).symm

/-! ## The selection -/

/-- The LEDs that draws `j` and `j + 1` choose in a non-top zone: a subgroup, then its first LEDs (R321 to R323). -/
def sideLeds (t : Topology) (p : PrngState) (z : SideZone) (j : Nat) : List LedIndex :=
  firstLeds (chooseCount (rawDraw p (j + 1))) (sideQuad t z (chooseSubgroup z (rawDraw p j)))

/-- The LEDs that the draws from `j` on choose in the top zone: a coin, and if it is 1 a base and a count (R324). -/
def topLeds (c : Config) (p : PrngState) (j : Nat) : List LedIndex :=
  if rawDraw p j % 2 = 1 then
    firstLeds (chooseCount (rawDraw p (j + 2))) (Quad.ofBase (topBase c (rawDraw p (j + 1) % 2)))
  else []

theorem selectSide_prngAfter (t : Topology) (z : SideZone) (p : PrngState) (j : Nat) :
    selectSide prngDraw t z (prngAfter j p) = (sideLeds t p z j, prngAfter (j + 2) p) := by
  simp only [selectSide, prngDraw_prngAfter, sideLeds]

theorem selectTop_prngAfter (c : Config) (p : PrngState) (j : Nat) :
    selectTop prngDraw c (prngAfter j p)
      = (topLeds c p j, prngAfter (j + if rawDraw p j % 2 = 1 then 3 else 1) p) := by
  by_cases hcoin : rawDraw p j % 2 = 1
  · simp only [selectTop, prngDraw_prngAfter, topLeds, if_pos hcoin]
  · simp only [selectTop, prngDraw_prngAfter, topLeds, if_neg hcoin]

/-- One flash: two draws for each of the six non-top zones, then one or three for the top zone (R320, R323, R324). -/
theorem selectFlash_eq (c : Config) (p : PrngState) :
    selectFlash prngDraw c p
      = (sideLeds c.topology p .front 0 ++ sideLeds c.topology p .back 2 ++ sideLeds c.topology p .leftLeft 4
          ++ sideLeds c.topology p .leftRight 6 ++ sideLeds c.topology p .rightLeft 8
          ++ sideLeds c.topology p .rightRight 10 ++ topLeds c p 12,
        prngAfter (if rawDraw p 12 % 2 = 1 then 15 else 13) p) := by
  change selectFlash prngDraw c (prngAfter 0 p) = _
  simp only [selectFlash, selectSides, sideZones, selectSide_prngAfter, selectTop_prngAfter, List.append_nil,
    List.append_assoc, Nat.reduceAdd]
  split <;> rfl

/-- The whole FLASH_SHOW step: the frame of the selected LEDs, committed once, and the stream after the draws (R320). -/
theorem flashShowStep_eq (s : State) : flashShowStep s = { s with
    pix := composeFlash s.flColor (selectFlash prngDraw s.cfg s.prng).1
    prng := (selectFlash prngDraw s.cfg s.prng).2
    trace := s.trace ++ [.commit (composeFlash s.flColor (selectFlash prngDraw s.cfg s.prng).1)]
    phase := .flashWait } := rfl

/-! ## The composed frame -/

/-- The first LEDs of a quadruple of consecutive indices are an interval. -/
theorem mem_firstLeds_ofBase {n : Nat} (hn : n ≤ 4) (b : Fin 85) (i : LedIndex) :
    i ∈ firstLeds n (Quad.ofBase b) ↔ b.val ≤ i.val ∧ i.val < b.val + n := by
  interval_cases n <;> simp [firstLeds, Quad.toList, Quad.ofBase, Fin.ext_iff] <;> omega

theorem mem_topLeds_iff {c : Config} {p : PrngState} {j : Nat} {i : LedIndex} :
    i ∈ topLeds c p j ↔ rawDraw p j % 2 = 1
      ∧ (topBase c (rawDraw p (j + 1) % 2)).val ≤ i.val
      ∧ i.val < (topBase c (rawDraw p (j + 1) % 2)).val + (rawDraw p (j + 2) % 4 + 1) := by
  have hcount : rawDraw p (j + 2) % 4 + 1 ≤ 4 := by omega
  unfold topLeds
  split
  case isTrue hcoin => simp only [chooseCount, mem_firstLeds_ofBase hcount, hcoin, true_and]
  case isFalse hcoin => simp [hcoin]

/-- Settles O32: the selection by the numbered draws is `selectFlash_eq`, and the composed frame is lit at exactly the
selected LEDs (`composeFlash_getElem`). -/
theorem flashShowComposesFromTheDraws : Obligations.FlashShowComposesFromTheDraws := by
  intro s s0 hturn hphase
  have hstep := step_of_blockTurn_done hturn (fetchBlock_flashShow hphase)
  rw [flashShowStep_eq, selectFlash_eq] at hstep
  refine ⟨_, hstep, fun i => ?_⟩
  rw [composeFlash_getElem]
  refine if_congr ?_ rfl rfl
  simp only [List.mem_append, or_assoc, mem_topLeds_iff]
  -- what is left spells out `sideLeds` in each zone and `topBase`
  rfl

end Sys2Proof.Machine
end

section
/-! PROOFS. The brightness curves: the value of each on one channel, its range, its last value, and the tables built from
them (spec/42_curve_generator.md R400 to R410). -/

namespace Sys2Proof.Machine

open Sys2Proof

/-! ## Channels and lanes (R402, R403, R408) -/

/-- A channel's register holds a value of at most 255 without loss. -/
theorem toNat_channel {v : Nat} (h : v ≤ 255) : (channel v).toNat = v := by
  rw [channel, BitVec.toNat_ofNat, Nat.mod_eq_of_lt (by omega)]

@[simp] theorem channel_toNat (x : BitVec 8) : channel x.toNat = x := by simp [channel]

/-- A formula that never exceeds its channel is what each lane holds. -/
theorem toNat_lane {f : Nat → Nat} (hf : ∀ x, f x ≤ x) {a : Color} {x out : BitVec 8}
    (h : (x, out) = (a.r, (lanes f a).r) ∨ (x, out) = (a.g, (lanes f a).g) ∨ (x, out) = (a.b, (lanes f a).b)) :
    out.toNat = f x.toNat := by
  have hlane : out = channel (f x.toNat) := by rcases h with h | h | h <;> cases h <;> rfl
  have hx : x.toNat < 256 := x.isLt
  have hfx : f x.toNat ≤ x.toNat := hf x.toNat
  rw [hlane, toNat_channel (by omega)]

/-- A formula that never exceeds both of its channels is what each lane of two colors holds. -/
theorem toNat_lane2 {f : Nat → Nat → Nat} (hf : ∀ m mx, f m mx ≤ max m mx) {a b : Color} {m mx out : BitVec 8}
    (h : (m, mx, out) = (a.r, b.r, (lanes2 f a b).r) ∨ (m, mx, out) = (a.g, b.g, (lanes2 f a b).g)
      ∨ (m, mx, out) = (a.b, b.b, (lanes2 f a b).b)) : out.toNat = f m.toNat mx.toNat := by
  have hlane : out = channel (f m.toNat mx.toNat) := by rcases h with h | h | h <;> cases h <;> rfl
  have hm : m.toNat < 256 := m.isLt
  have hmx : mx.toNat < 256 := mx.isLt
  have hfm : f m.toNat mx.toNat ≤ max m.toNat mx.toNat := hf m.toNat mx.toNat
  rw [hlane, toNat_channel (by omega)]

theorem lanes_eq_self {f : Nat → Nat} (hf : ∀ x, f x = x) (a : Color) : lanes f a = a := by simp [lanes, hf]

theorem lanes2_eq_right {f : Nat → Nat → Nat} (hf : ∀ m mx, f m mx = mx) (a b : Color) : lanes2 f a b = b := by
  simp [lanes2, hf]

/-! ## Tables and their allocation (R400, R401, R410) -/

/-- The last element is that of step number n (R401). -/
theorem tableOf_getLast? {n : Nat} (element : Nat → Color) (hn : 0 < n) :
    (tableOf n element).getLast? = some (element n) := by
  have hlast : n - 1 < (tableOf n element).length := by rw [tableOf_length]; omega
  rw [List.getLast?_eq_getElem?, tableOf_length, List.getElem?_eq_getElem hlast, tableOf_getElem, Nat.sub_add_cancel hn]

theorem generate_of_allocFails {s : State} {n : Nat} (g : List Color)
    (h : s.cfg.allocOk = false ∨ s.cfg.tableCapacity < n) :
    generate n g s = .next { s with errCode := .allocFail, phase := .halted } := by
  rcases generate_cases n g s with ⟨hcan, _⟩ | ⟨_, hg⟩
  · simp only [canAllocate, Bool.and_eq_true, decide_eq_true_eq] at hcan
    obtain ⟨hok, hfits⟩ := hcan
    rcases h with hfails | hover
    · simp [hok] at hfails
    · omega
  · exact hg

theorem generate_of_allocOk {s : State} {n : Nat} (g : List Color) (hok : s.cfg.allocOk = true)
    (hfits : n ≤ s.cfg.tableCapacity) : generate n g s = .next { s with genOut := g } := by
  rcases generate_cases n g s with ⟨_, hg⟩ | ⟨hcannot, _⟩
  · exact hg
  · simp [canAllocate, hok, hfits] at hcannot

/-! ## The linear curve (R404) -/

theorem linearChannel_le {n p : Nat} (hp : p ≤ n) (a : Nat) : linearChannel n p a ≤ a :=
  Nat.div_le_of_le_mul (by rw [Nat.mul_comm n]; exact Nat.mul_le_mul_left a hp)

theorem linearChannel_last {n : Nat} (hn : 0 < n) (a : Nat) : linearChannel n n a = a := Nat.mul_div_cancel a hn

/-- Settles O15: each lane is `linearChannel`, which stays within its channel and ends at it. -/
theorem genLinearBuildsItsTable : Obligations.GenLinearBuildsItsTable := by
  intro s a n
  refine ⟨generate_of_allocFails _,
    fun hok hfits => ⟨tableOf n _, generate_of_allocOk _ hok hfits, tableOf_length _ _, fun i hi => ?_, fun hn => ?_⟩⟩
  · have hp : i + 1 ≤ n := by simpa using hi
    have hlane := @toNat_lane _ (linearChannel_le hp) a
    rw [tableOf_getElem]
    exact ⟨hlane (.inl rfl), hlane (.inr (.inl rfl)), hlane (.inr (.inr rfl))⟩
  · rw [tableOf_getLast? _ hn, lanes_eq_self (linearChannel_last hn)]

/-! ## The quadratic curve (R405) -/

theorem quadraticChannel_eq (n p a : Nat) : quadraticChannel n p a = a * p ^ 2 / n ^ 2 := by
  rw [quadraticChannel, Nat.mul_assoc, ← Nat.pow_two, ← Nat.pow_two]

theorem quadraticChannel_le {n p : Nat} (hp : p ≤ n) (a : Nat) : quadraticChannel n p a ≤ a := by
  rw [quadraticChannel_eq]
  refine Nat.div_le_of_le_mul ?_
  calc a * p ^ 2 ≤ a * n ^ 2 := Nat.mul_le_mul_left a (Nat.pow_le_pow_left hp 2)
    _ = n ^ 2 * a := Nat.mul_comm _ _

theorem quadraticChannel_last {n : Nat} (hn : 0 < n) (a : Nat) : quadraticChannel n n a = a := by
  rw [quadraticChannel_eq, Nat.mul_div_cancel a (Nat.pow_pos hn)]

/-- Settles O16: each lane is `quadraticChannel`, which stays within its channel and ends at it. -/
theorem genQuadraticBuildsItsTable : Obligations.GenQuadraticBuildsItsTable := by
  intro s a n
  refine ⟨generate_of_allocFails _,
    fun hok hfits => ⟨tableOf n _, generate_of_allocOk _ hok hfits, tableOf_length _ _, fun i hi => ?_, fun hn => ?_⟩⟩
  · have hp : i + 1 ≤ n := by simpa using hi
    have hlane := @toNat_lane _ (quadraticChannel_le hp) a
    rw [tableOf_getElem]
    simp only [← quadraticChannel_eq]
    exact ⟨hlane (.inl rfl), hlane (.inr (.inl rfl)), hlane (.inr (.inr rfl))⟩
  · rw [tableOf_getLast? _ hn, lanes_eq_self (quadraticChannel_last hn)]

/-! ## The curve between two colors (R406) -/

/-- The sum that is truncated is the mean of the two channels with the weights `n² - p²` and `p²`. -/
theorem minMax_sum_eq_weightedMean (n p m mx : Int) :
    m * n ^ 2 + (mx - m) * p ^ 2 = m * (n ^ 2 - p ^ 2) + mx * p ^ 2 := by ring

/-- The truncated mean lies between the two channels, whichever is the larger. -/
theorem minMax_floor_between {n p : Nat} (hn : 0 < n) (hp : p ≤ n) (m mx : Int) :
    min m mx ≤ (m * n ^ 2 + (mx - m) * p ^ 2) / (n : Int) ^ 2
      ∧ (m * n ^ 2 + (mx - m) * p ^ 2) / (n : Int) ^ 2 ≤ max m mx := by
  have hden : (0 : Int) < (n : Int) ^ 2 := by positivity
  have hp2 : (0 : Int) ≤ (p : Int) ^ 2 := by positivity
  have hrest : (0 : Int) ≤ (n : Int) ^ 2 - (p : Int) ^ 2 := by
    exact_mod_cast Int.sub_nonneg_of_le (Int.ofNat_le.mpr (Nat.pow_le_pow_left hp 2))
  rw [minMax_sum_eq_weightedMean]
  constructor
  · refine Int.le_ediv_of_mul_le hden ?_
    calc min m mx * (n : Int) ^ 2 = min m mx * ((n : Int) ^ 2 - (p : Int) ^ 2) + min m mx * (p : Int) ^ 2 := by ring
      _ ≤ m * ((n : Int) ^ 2 - (p : Int) ^ 2) + mx * (p : Int) ^ 2 := by gcongr <;> simp
  · refine Int.ediv_le_of_le_mul hden ?_
    calc m * ((n : Int) ^ 2 - (p : Int) ^ 2) + mx * (p : Int) ^ 2
        ≤ max m mx * ((n : Int) ^ 2 - (p : Int) ^ 2) + max m mx * (p : Int) ^ 2 := by gcongr <;> simp
      _ = max m mx * (n : Int) ^ 2 := by ring

/-- On a falling channel too the sum is no less than 0, so the floor over the integers is the channel's value. -/
theorem minMaxChannel_toInt {n p : Nat} (hn : 0 < n) (hp : p ≤ n) (m mx : Nat) :
    (minMaxChannel n p m mx : Int) = ((m : Int) * n ^ 2 + ((mx : Int) - m) * p ^ 2) / (n : Int) ^ 2 := by
  obtain ⟨hmin, _⟩ := minMax_floor_between hn hp m mx
  have hnonneg : (0 : Int) ≤ ((m : Int) * n ^ 2 + ((mx : Int) - m) * p ^ 2) / (n : Int) ^ 2 := by omega
  rw [minMaxChannel, Int.mul_assoc, Int.mul_assoc, ← pow_two, ← pow_two, Int.toNat_of_nonneg hnonneg]

theorem minMaxChannel_between {n p : Nat} (hn : 0 < n) (hp : p ≤ n) (m mx : Nat) :
    min m mx ≤ minMaxChannel n p m mx ∧ minMaxChannel n p m mx ≤ max m mx := by
  have hbounds := minMax_floor_between hn hp m mx
  rw [← minMaxChannel_toInt hn hp] at hbounds
  omega

theorem minMaxChannel_last {n : Nat} (hn : 0 < n) (m mx : Nat) : minMaxChannel n n m mx = mx := by
  have hden : (n : Int) ^ 2 ≠ 0 := by positivity
  have hsum : (m : Int) * n ^ 2 + ((mx : Int) - m) * n ^ 2 = mx * n ^ 2 := by ring
  have hvalue := minMaxChannel_toInt hn (Nat.le_refl n) m mx
  rw [hsum, Int.mul_ediv_cancel _ hden] at hvalue
  exact Int.ofNat_inj.mp hvalue

/-- Settles O17: each lane is `minMaxChannel`, a mean of the two channels that ends at the second. -/
theorem genMinMaxQBuildsItsTable : Obligations.GenMinMaxQBuildsItsTable := by
  intro s a b n
  refine ⟨generate_of_allocFails _, fun hok hfits =>
    ⟨tableOf n _, generate_of_allocOk _ hok hfits, tableOf_length _ _, fun i hi m mx out hlane => ?_, fun hn => ?_⟩⟩
  · have hp : i + 1 ≤ n := by simpa using hi
    have hn : 0 < n := by omega
    rw [tableOf_getElem] at hlane
    rw [toNat_lane2 (fun m mx => (minMaxChannel_between hn hp m mx).2) hlane]
    exact ⟨by exact_mod_cast minMaxChannel_toInt hn hp m.toNat mx.toNat, minMaxChannel_between hn hp _ _⟩
  · rw [tableOf_getLast? _ hn, lanes2_eq_right (minMaxChannel_last hn)]

/-! ## The exponential curve (R407) -/

@[simp] theorem exponentialChannel_zero (n p : Nat) : exponentialChannel n p 0 = 0 := if_pos rfl

/-- The value on a channel that is not 0 is the integer root of `a ^ p`. The search's bound `a` loses no root, because
`a ^ p ≤ a ^ n`. -/
theorem exponentialChannel_spec {n p a : Nat} (hn : 0 < n) (hp : p ≤ n) (ha : 1 ≤ a) :
    1 ≤ exponentialChannel n p a ∧ exponentialChannel n p a ≤ a ∧ exponentialChannel n p a ^ n ≤ a ^ p
      ∧ a ^ p < (exponentialChannel n p a + 1) ^ n := by
  have hroot : exponentialChannel n p a = rootWithin n (a ^ p) a := if_neg (by omega)
  obtain ⟨hle, hpow, hmax⟩ := rootWithin_spec n (a ^ p) a hn
  rw [hroot]
  refine ⟨hmax 1 ha (by rw [Nat.one_pow]; exact Nat.one_le_pow _ _ ha), hle, hpow, ?_⟩
  by_contra hover
  rcases Nat.lt_or_eq_of_le hle with hlt | heq
  · exact absurd (hmax _ hlt (Nat.le_of_not_lt hover)) (by omega)
  · rw [heq] at hover
    exact hover (calc a ^ p ≤ a ^ n := Nat.pow_le_pow_right ha hp
      _ < (a + 1) ^ n := Nat.pow_lt_pow_left (Nat.lt_succ_self a) (by omega))

theorem exponentialChannel_le {n p : Nat} (hn : 0 < n) (hp : p ≤ n) (a : Nat) : exponentialChannel n p a ≤ a := by
  rcases Nat.eq_zero_or_pos a with rfl | ha
  · simp
  · obtain ⟨_, hle, _, _⟩ := exponentialChannel_spec hn hp ha
    exact hle

theorem exponentialChannel_last {n : Nat} (hn : 0 < n) (a : Nat) : exponentialChannel n n a = a := by
  rcases Nat.eq_zero_or_pos a with rfl | ha
  · simp
  · obtain ⟨_, hle, _, hlt⟩ := exponentialChannel_spec hn (Nat.le_refl n) ha
    have hroot : a < exponentialChannel n n a + 1 := lt_of_pow_lt_pow_left' n hlt
    omega

/-- Settles O18: each lane is `exponentialChannel`, an integer root by `exponentialChannel_spec`. -/
theorem genExponentialBuildsItsTable : Obligations.GenExponentialBuildsItsTable := by
  intro s a n
  refine ⟨generate_of_allocFails _, fun hok hfits =>
    ⟨tableOf n _, generate_of_allocOk _ hok hfits, tableOf_length _ _, fun i hi x out hlane => ?_, fun hn => ?_⟩⟩
  · have hp : i + 1 ≤ n := by simpa using hi
    have hn : 0 < n := by omega
    rw [tableOf_getElem] at hlane
    rw [toNat_lane (exponentialChannel_le hn hp) hlane]
    exact ⟨fun hx => by simp [hx], exponentialChannel_spec hn hp⟩
  · rw [tableOf_getLast? _ hn, lanes_eq_self (exponentialChannel_last hn)]

/-! ## The shortest tables (R409) -/

@[simp] theorem tableOf_zero (element : Nat → Color) : tableOf 0 element = [] := rfl

theorem tableOf_one (element : Nat → Color) : tableOf 1 element = [element 1] := rfl

/-- Settles O20: no step for n = 0; for n = 1 the one step is the last, where each curve ends. -/
theorem tablesOfLengthZeroAndOne : Obligations.TablesOfLengthZeroAndOne := by
  intro a b
  refine ⟨⟨tableOf_zero _, tableOf_zero _, tableOf_zero _, tableOf_zero _⟩, ?linear, ?quadratic, ?minMax, ?exponential⟩
  case linear => rw [linearTable, tableOf_one, lanes_eq_self (linearChannel_last Nat.one_pos)]
  case quadratic => rw [quadraticTable, tableOf_one, lanes_eq_self (quadraticChannel_last Nat.one_pos)]
  case minMax => rw [minMaxTable, tableOf_one, lanes2_eq_right (minMaxChannel_last Nat.one_pos)]
  case exponential => rw [exponentialTable, tableOf_one, lanes_eq_self (exponentialChannel_last Nat.one_pos)]

end Sys2Proof.Machine
end

section
/-! PROOFS. The reset state and the startup step (spec/70_reset_and_hazards.md R600 to R602, spec/10_state.md R37). -/

namespace Sys2Proof.Machine

open Sys2Proof

/-! ## Reset -/

/-- The check that every configuration carries includes that of note 0 (00_scope.md R8, R12). -/
theorem noteColor_zero_eq_red (c : Config) : c.noteColor[0] = ⟨255, 0, 0⟩ := by
  have hwf := c.wellFormed
  simp only [RawConfig.wf, Bool.and_eq_true] at hwf
  obtain ⟨⟨_, hred⟩, _⟩ := hwf
  exact of_decide_eq_true hred

/-- The pixel buffer of the reset state is dark (R37). -/
theorem resetWith_pix_getElem (c : Config) (seed : PrngState) (i : LedIndex) :
    (State.resetWith c seed).pix[i.val] = ⟨0, 0, 0⟩ := by
  simp [State.resetWith, Color.off]

/-- Settles O45: the registers are fields of `State.resetWith`; the color of note 0 is the configuration's check. -/
theorem resetLeavesTheStatedValues : Obligations.ResetLeavesTheStatedValues := fun c seed =>
  ⟨_, rfl, rfl, rfl, rfl, rfl, rfl, rfl, rfl, rfl, rfl, rfl, rfl, rfl, rfl, rfl,
    resetWith_pix_getElem c seed, rfl, noteColor_zero_eq_red c⟩

/-! ## The INIT step -/

/-- Storing a result in `INIT` ends the startup (R601). -/
theorem retire_genOut_of_init (g : List Color) {s : State} (h : s.phase = .init) :
    retire { s with genOut := g } = { s with table := loadTable g s.table, genOut := g, phase := .idle } := if_pos h

/-- A result of 100 elements replaces every entry of `T`. -/
theorem loadTable_getElem_of_length {g : List Color} (t : DroneTable) (hg : g.length = 100) (k : Fin 100) :
    (loadTable g t)[k.val] = g[k.val] := by
  rw [loadTable_getElem, List.getD_eq_getElem]

/-- The `INIT` step runs the decoded control word, whatever it is, and retires its outcome. -/
theorem step_of_init {s s0 : State} (hturn : BlockTurn s s0) (hphase : s0.phase = .init) :
    step s = retireOutcome (exec (decodeControl s0.genWord) s0) := by
  rw [step_of_blockTurn hturn]
  simp only [fetchBlock, hphase, runFetched]

/-- Settles O42: with the startup word the step runs GEN_QUADRATIC with 100 elements, of which
`genQuadraticBuildsItsTable` says both outcomes; the table is stored entry by entry, and a halt has nothing to store. -/
theorem initStepBuildsTheDroneTableOrHalts : Obligations.InitStepBuildsTheDroneTableOrHalts := by
  intro s s0 hturn hphase hword
  have hstep := step_of_init hturn hphase
  rw [hword, decodeControl_startupWord] at hstep
  obtain ⟨hfail, hbuild⟩ := genQuadraticBuildsItsTable s0 s0.cfg.droneColor 100
  refine ⟨fun hok hfits => ?built, fun halloc => ?halt⟩
  case built =>
    obtain ⟨g, hexec, hlen, hentry, _⟩ := hbuild hok hfits
    refine ⟨loadTable g s0.table, g, fun k => ?entry, ?next⟩
    case entry =>
      rw [loadTable_getElem_of_length s0.table hlen k]
      exact hentry k.val (by omega)
    case next =>
      rw [hstep, hexec, retireOutcome, retire_genOut_of_init g hphase]
  case halt =>
    rw [hstep, hfail halloc, retireOutcome, retire_of_ne (by simp)]

end Sys2Proof.Machine
end

section
/-! PROOFS. What a step of the machine changes, field by field: the phase, the constants, the stream, the events and the
clock (spec/10_state.md R32, R33, R41 to R45, R50 to R52); and the two ways a machine cannot go on, or goes on undisturbed
(spec/60_exceptions.md R510, R511, spec/41_pattern_engine.md R346). -/

namespace Sys2Proof.Machine

open Sys2Proof

/-! ## The undisturbed drone -/

/-- Settles O60: the step exists and stays in the pass (`DroneUndisturbed.step_next`), and a step has one outcome. -/
theorem undisturbedDroneGoesOn : Obligations.UndisturbedDroneGoesOn := by
  intro s h
  obtain ⟨t, hstep, ht⟩ := h.step_next
  refine ⟨⟨t, hstep⟩, fun u hu => ?_⟩
  cases hstep.symm.trans hu
  exact ht

/-! ## The two branches of DRONE_ENTRY, and the drone's phases -/

/-- DRONE_ENTRY writes its four registers at most (R340). -/
theorem droneEntryStep_cases (s : State) :
    droneEntryStep s = { s with phase := .idle }
      ∨ droneEntryStep s = { s with stop := false, dir := .asc, k := 0, phase := .droneShow } := by
  by_cases hrx : s.rx = []
  · exact .inr (droneEntryStep_of_empty hrx)
  · exact .inl (droneEntryStep_of_pending hrx)

theorem droneWaitStep_phase (s : State) : (droneWaitStep s).phase = .droneShow ∨ (droneWaitStep s).phase = .idle := by
  rw [droneWaitStep_eq]
  exact nextDroneStep_phase _ _ _

/-- The whole DRONE_SHOW step (R341). -/
theorem droneShowStep_eq (s : State) : droneShowStep s = { s with
    pix := uniformPixels (droneColorAt s.table s.k)
    trace := s.trace ++ [.commit (uniformPixels (droneColorAt s.table s.k))]
    phase := .droneWait } := rfl

/-! ## The phase -/

/-- A transition of the sequencer (R50, R51): the phase stays, or it takes one of the rules' arrows. -/
inductive PhaseArrow : Phase → Phase → Prop where
  | stay (p : Phase) : PhaseArrow p p
  | initDone : PhaseArrow .init .idle
  | initFail : PhaseArrow .init .halted
  | droneOff : PhaseArrow .idle .allOff
  | droneOn : PhaseArrow .idle .droneEntry
  | note : PhaseArrow .idle .flashShow
  | cleared : PhaseArrow .allOff .idle
  | entryReturn : PhaseArrow .droneEntry .idle
  | entryStart : PhaseArrow .droneEntry .droneShow
  | droneShown : PhaseArrow .droneShow .droneWait
  | passEnd : PhaseArrow .droneWait .idle
  | passOn : PhaseArrow .droneWait .droneShow
  | flash : PhaseArrow .flashShow .flashWait
  | flashEnd : PhaseArrow .flashWait .idle

theorem BlockStep.phaseArrow {s t : State} (h : BlockStep s t) : PhaseArrow s.phase t.phase := by
  cases h with
  | wait => exact .stay _
  | drop hp _ e _ ha =>
    rw [raise_phase, if_neg ha, hp]
    exact .stay _
  | droneOff hp => rw [hp]; exact .droneOff
  | droneOn hp => rw [hp]; exact .droneOn
  | note hp => rw [hp]; exact .note
  | initFail hp => rw [hp]; exact .initFail
  | initDone hp g => rw [retire_genOut_of_init g hp, hp]; exact .initDone
  | allOff hp => rw [hp]; exact .cleared
  | droneEntry hp =>
    rcases droneEntryStep_cases s with he | he
    · rw [he, hp]; exact .entryReturn
    · rw [he, hp]; exact .entryStart
  | droneShow hp => rw [hp]; exact .droneShown
  | droneWait hp =>
    rcases droneWaitStep_phase s with he | he
    · rw [he, hp]; exact .passOn
    · rw [he, hp]; exact .passEnd
  | flashShow hp => rw [hp]; exact .flash
  | flashWait hp => rw [hp]; exact .flashEnd

/-- The host's turn leaves the phase; a block step takes an arrow. -/
theorem step_phaseArrow {s t : State} (h : step s = .next t) : PhaseArrow s.phase t.phase := by
  rcases step_cases h with ⟨b, rest, _, rfl⟩ | ⟨ts, _, hb⟩
  · obtain ⟨rx, _, hsend⟩ := hostSend_shape b { s with turns := rest }
    rw [hsend]
    exact .stay _
  · exact hb.phaseArrow

/-- Settles O51: the phase takes an arrow (`step_phaseArrow`), and the arrows are those of the rules. -/
theorem phaseTransitionsAreTheRules : Obligations.PhaseTransitionsAreTheRules := by
  intro s t hstep
  have harrow := step_phaseArrow hstep
  generalize s.phase = p at harrow ⊢
  generalize t.phase = q at harrow ⊢
  cases harrow <;> simp

/-! ## The constants and the stream -/

/-- From `s` to `t` the configuration and the control word are as they were, and outside its startup and FLASH_SHOW so are
the drone table and the stream (R42, R43, R45). -/
structure KeepsConstants (s t : State) : Prop where
  cfg : t.cfg = s.cfg
  genWord : t.genWord = s.genWord
  table : s.phase ≠ .init → t.table = s.table
  prng : s.phase ≠ .flashShow → t.prng = s.prng

theorem BlockStep.keepsConstants {s t : State} (h : BlockStep s t) : KeepsConstants s t := by
  cases h with
  | wait | initFail | allOff | droneShow | flashWait => exact ⟨rfl, rfl, fun _ => rfl, fun _ => rfl⟩
  | drop | droneOff | droneOn | note => constructor <;> simp
  | initDone hp g =>
    rw [retire_genOut_of_init g hp]
    exact ⟨rfl, rfl, fun hne => absurd hp hne, fun _ => rfl⟩
  | droneEntry =>
    rcases droneEntryStep_cases s with he | he <;> rw [he] <;> exact ⟨rfl, rfl, fun _ => rfl, fun _ => rfl⟩
  | droneWait => rw [droneWaitStep_eq]; exact ⟨rfl, rfl, fun _ => rfl, fun _ => rfl⟩
  | flashShow hp => exact ⟨rfl, rfl, fun _ => rfl, fun hne => absurd hp hne⟩

theorem step_keepsConstants {s t : State} (h : step s = .next t) : KeepsConstants s t := by
  rcases step_cases h with ⟨b, rest, _, rfl⟩ | ⟨ts, _, hb⟩
  · obtain ⟨rx, _, hsend⟩ := hostSend_shape b { s with turns := rest }
    rw [hsend]
    exact ⟨rfl, rfl, fun _ => rfl, fun _ => rfl⟩
  · obtain ⟨hcfg, hword, htable, hprng⟩ := hb.keepsConstants
    exact ⟨hcfg, hword, htable, hprng⟩

/-- Settles O52: three of the fields of `KeepsConstants`. -/
theorem tablesAndConfigurationAreNeverRewritten : Obligations.TablesAndConfigurationAreNeverRewritten :=
  fun _ _ hstep =>
    have hkeeps := step_keepsConstants hstep
    ⟨hkeeps.cfg, hkeeps.genWord, hkeeps.table⟩

/-- Settles O53: the fourth field of `KeepsConstants`. -/
theorem onlyFlashShowDraws : Obligations.OnlyFlashShowDraws := fun _ _ hstep => (step_keepsConstants hstep).prng

/-! ## Totals of a trace -/

@[simp] theorem heldTime_append (l l' : List Event) : heldTime (l ++ l') = heldTime l + heldTime l' := by
  induction l with
  | nil => simp [heldTime]
  | cons e l ih => cases e <;> simp [heldTime, ih, Nat.add_assoc]

@[simp] theorem commitsOf_append (l l' : List Event) : commitsOf (l ++ l') = commitsOf l ++ commitsOf l' := by
  induction l with
  | nil => rfl
  | cons e l ih => cases e <;> simp [commitsOf, ih]

/-- The last commit of a trace is the last of its commits. -/
theorem lastCommit_eq_getLast? (l : List Event) : lastCommit l = (commitsOf l).getLast? := by
  induction l with
  | nil => rfl
  | cons e l ih =>
    simp only [lastCommit, ih]
    cases hlast : (commitsOf l).getLast? with
    | none =>
      have hnil : commitsOf l = [] := List.getLast?_eq_none_iff.mp hlast
      cases e <;> simp [commitsOf, hnil]
    | some p => cases e <;> simp [commitsOf, hlast, List.getLast?_cons]

/-- Events without a commit leave the physical LEDs as they were (R33). -/
theorem physicalLeds_of_no_commit {s t : State} {new : List Event} (htrace : t.trace = s.trace ++ new)
    (hnew : commitsOf new = []) : physicalLeds t = physicalLeds s := by
  simp [physicalLeds, lastCommit_eq_getLast?, htrace, hnew]

/-- After a commit the physical LEDs show it (R33). -/
theorem physicalLeds_of_commit {s t : State} {new : List Event} {p : LedFrame} (htrace : t.trace = s.trace ++ new)
    (hnew : commitsOf new = [p]) : physicalLeds t = p := by
  simp [physicalLeds, lastCommit_eq_getLast?, htrace, hnew]

/-! ## The events -/

/-- The events that a step from `s` to `t` may add, each with what it does to the clock and the pixels: none, the
acknowledgment of a decode step, a commit of the pixels left, a hold, or a hold and a commit. -/
inductive Adds (s t : State) : List Event → Prop where
  | silent (hpix : t.pix = s.pix) (hclock : t.tUs = s.tUs) : Adds s t []
  | ack (hphase : s.phase = .idle) (hpix : t.pix = s.pix) (hclock : t.tUs = s.tUs) : Adds s t [.tx ackByte]
  | commit (hclock : t.tUs = s.tUs) : Adds s t [.commit t.pix]
  | hold (us : Nat) (hpix : t.pix = s.pix) (hclock : t.tUs = s.tUs + us) : Adds s t [.hold us]
  | holdCommit (us : Nat) (hclock : t.tUs = s.tUs + us) : Adds s t [.hold us, .commit t.pix]

theorem BlockStep.adds {s t : State} (h : BlockStep s t) : ∃ new, t.trace = s.trace ++ new ∧ Adds s t new := by
  have silent {u : State} (htrace : u.trace = s.trace) (hpix : u.pix = s.pix) (hclock : u.tUs = s.tUs) :
      ∃ new, u.trace = s.trace ++ new ∧ Adds s u new := ⟨[], by simp [htrace], .silent hpix hclock⟩
  cases h with
  | wait | initFail => exact silent rfl rfl rfl
  | drop => exact silent (by simp) (by simp) (by simp)
  | droneOff hp | droneOn hp | note hp => exact ⟨[.tx ackByte], by simp, .ack hp (by simp) (by simp)⟩
  | initDone hp g => rw [retire_genOut_of_init g hp]; exact silent rfl rfl rfl
  | droneEntry => rcases droneEntryStep_cases s with he | he <;> rw [he] <;> exact silent rfl rfl rfl
  | allOff | droneShow | flashShow => exact ⟨_, rfl, .commit rfl⟩
  | droneWait => rw [droneWaitStep_eq]; exact ⟨_, rfl, .hold _ rfl rfl⟩
  | flashWait => rw [flashWaitStep_eq]; exact ⟨_, rfl, .holdCommit _ rfl⟩

theorem step_adds {s t : State} (h : step s = .next t) : ∃ new, t.trace = s.trace ++ new ∧ Adds s t new := by
  rcases step_cases h with ⟨b, rest, _, rfl⟩ | ⟨ts, _, hb⟩
  · obtain ⟨rx, _, hsend⟩ := hostSend_shape b { s with turns := rest }
    rw [hsend]
    exact ⟨[], by simp, .silent rfl rfl⟩
  · obtain ⟨new, htrace, hadds⟩ := hb.adds
    refine ⟨new, htrace, ?_⟩
    cases hadds with
    | silent hpix hclock => exact .silent hpix hclock
    | ack hphase hpix hclock => exact .ack hphase hpix hclock
    | commit hclock => exact .commit hclock
    | hold us hpix hclock => exact .hold us hpix hclock
    | holdCommit us hclock => exact .holdCommit us hclock

theorem Adds.clock {s t : State} {new : List Event} (h : Adds s t new) : t.tUs = s.tUs + heldTime new := by
  cases h <;> simpa [heldTime]

/-- Settles O54: the events are those of `Adds`, whose holds are the clock's advance. -/
theorem clockAdvancesByTheHolds : Obligations.ClockAdvancesByTheHolds := by
  intro s t hstep
  obtain ⟨new, htrace, hadds⟩ := step_adds hstep
  exact ⟨new, htrace, hadds.clock⟩

/-- A step commits nothing and leaves the pixels, or commits the pixels it leaves. -/
theorem Adds.commits {s t : State} {new : List Event} (h : Adds s t new) :
    (commitsOf new = [] ∧ t.pix = s.pix) ∨ commitsOf new = [t.pix] := by
  cases h with
  | silent hpix | ack _ hpix | hold _ hpix => exact .inl ⟨rfl, hpix⟩
  | commit | holdCommit => exact .inr rfl

/-- Settles O55: the commits are those of `Adds.commits`, and the physical LEDs follow the last one. -/
theorem pixelChangesAreCommittedOnce : Obligations.PixelChangesAreCommittedOnce := by
  intro s t hstep
  obtain ⟨new, htrace, hadds⟩ := step_adds hstep
  refine ⟨new, htrace, ?_⟩
  rcases hadds.commits with ⟨hnone, hpix⟩ | hone
  · exact .inl ⟨hnone, hpix, physicalLeds_of_no_commit htrace hnone⟩
  · exact .inr ⟨hone, physicalLeds_of_commit htrace hone⟩

/-- Settles O56: of the lists of `Adds` only a decode step's acknowledgment sends a byte. -/
theorem onlyDecodeStepsSend : Obligations.OnlyDecodeStepsSend := by
  intro s t hstep hsent
  obtain ⟨new, htrace, hadds⟩ := step_adds hstep
  rw [htrace, bytesSent_append] at hsent
  cases hadds with
  | ack hphase => exact ⟨hphase, htrace⟩
  | silent | commit | hold | holdCommit => simp at hsent

/-! ## A step that answers no next state -/

/-- Every instruction answers a next state. -/
theorem exec_next (i : Instr) (s : State) : ∃ t, exec i s = .next t := by
  rcases exec_cases i s with h | h | ⟨_, _, _, _, h⟩ | ⟨_, _, h⟩ | ⟨_, h⟩ <;> exact ⟨_, h⟩

/-- Outside `HALTED` every block step answers a next state. -/
theorem fetchBlock_next {s : State} (h : s.phase ≠ .halted) : ∃ t, runFetched (fetchBlock s) = .next t := by
  have run_next (i : Instr) (u : State) : ∃ t, runFetched (.run i u) = .next t := by
    obtain ⟨t, ht⟩ := exec_next i u
    exact ⟨retire t, by rw [runFetched, ht, retireOutcome]⟩
  cases hp : s.phase with
  | halted => exact absurd hp h
  | init => simp only [fetchBlock, hp]; exact run_next _ _
  | idle =>
    simp only [fetchBlock, hp, fetchFrame]
    split
    · exact ⟨_, rfl⟩
    · split
      · exact ⟨_, rfl⟩
      · exact run_next _ _
  | allOff => exact ⟨_, by rw [fetchBlock_allOff hp]; rfl⟩
  | droneEntry => exact ⟨_, by rw [fetchBlock_droneEntry hp]; rfl⟩
  | droneShow => exact ⟨_, by rw [fetchBlock_droneShow hp]; rfl⟩
  | droneWait => exact ⟨_, by rw [fetchBlock_droneWait hp]; rfl⟩
  | flashShow => exact ⟨_, by rw [fetchBlock_flashShow hp]; rfl⟩
  | flashWait => exact ⟨_, by rw [fetchBlock_flashWait hp]; rfl⟩

/-- In `HALTED` the block has no step (60_exceptions.md R510, log 14). -/
theorem fetchBlock_halted {s : State} (h : s.phase = .halted) : fetchBlock s = .done (.fault .halted) := by
  simp only [fetchBlock, h]

theorem step_of_halted {s s0 : State} (hturn : BlockTurn s s0) (h : s0.phase = .halted) : step s = .fault .halted := by
  rw [step_of_blockTurn hturn, fetchBlock_halted h]
  rfl

/-- A turn answers a next state, or it is the block's in `HALTED` and the outcome is the fault. -/
theorem step_next_or_fault (s : State) :
    (∃ t, step s = .next t) ∨ ((∃ s0, BlockTurn s s0 ∧ s0.phase = .halted) ∧ step s = .fault .halted) := by
  rcases fetch_cases s with ⟨b, rest, hturns, _⟩ | ⟨ts, hturn, _⟩
  · exact .inl ⟨_, step_of_hostTurn hturns⟩
  · by_cases hp : s.phase = .halted
    · exact .inr ⟨⟨_, hturn, hp⟩, step_of_halted hturn hp⟩
    · rw [step_of_blockTurn hturn]
      exact .inl (fetchBlock_next hp)

/-- Settles O43: a step that answers no next state is the fault of a halted block (`step_next_or_fault`). -/
theorem onlyAHaltedBlockStops : Obligations.OnlyAHaltedBlockStops := by
  intro s
  refine ⟨fun r hr => ?_, fun f => ⟨fun hf => ?_, ?_⟩⟩
  · rcases step_next_or_fault s with ⟨t, ht⟩ | ⟨_, hfault⟩
    · cases ht.symm.trans hr
    · cases hfault.symm.trans hr
  · rcases step_next_or_fault s with ⟨t, ht⟩ | ⟨hhalted, _⟩
    · cases ht.symm.trans hf
    · exact hhalted
  · rintro ⟨s0, hturn, hp⟩
    cases f
    exact step_of_halted hturn hp

/-- A halted block has no step that answers a next state. -/
theorem not_blockStep_of_halted {s t : State} (hp : s.phase = .halted) : ¬ BlockStep s t := by
  intro h
  cases h with
  | wait hp' | drop hp' | droneOff hp' | droneOn hp' | note hp' | initFail hp' | initDone hp' | allOff hp'
  | droneEntry hp' | droneShow hp' | droneWait hp' | flashShow hp' | flashWait hp' => cases hp.symm.trans hp'

/-- Settles O44: the step is no block step (`not_blockStep_of_halted`), and `HostSend` writes the FIFO only. -/
theorem haltedOnlyTakesHostBytes : Obligations.HaltedOnlyTakesHostBytes := by
  intro s t hp hstep
  rcases step_cases hstep with ⟨b, rest, hturns, rfl⟩ | ⟨ts, _, hb⟩
  · obtain ⟨rx, _, hsend⟩ := hostSend_shape b { s with turns := rest }
    rw [hsend]
    exact ⟨rfl, b, rest, hturns, rfl⟩
  · exact absurd hb (not_blockStep_of_halted hp)

end Sys2Proof.Machine
end

section
/-! PROOFS. The invariant of the machine: it holds at reset, every step keeps it, and so the pixels are `OFF` in `IDLE` in
every run (spec/10_state.md R31, R32, R37, R39, R42, R44, R52, spec/60_exceptions.md R510). -/

namespace Sys2Proof.Machine

open Sys2Proof

/-! ## The drone table of a successful startup -/

/-- A result that the startup operation stored builds the drone table (R42; `genQuadraticBuildsItsTable`). -/
theorem droneTableBuilt_of_exec {s : State} {g : List Color} (hphase : s.phase = .init)
    (hword : s.genWord = startupWord s.cfg) (hg : exec (decodeControl s.genWord) s = .next { s with genOut := g }) :
    DroneTableBuilt s.cfg (loadTable g s.table) := by
  rw [hword, decodeControl_startupWord] at hg
  obtain ⟨hfail, hbuild⟩ := genQuadraticBuildsItsTable s s.cfg.droneColor 100
  by_cases halloc : s.cfg.allocOk = true ∧ 100 ≤ s.cfg.tableCapacity
  · obtain ⟨hok, hfits⟩ := halloc
    obtain ⟨g', hexec, hlen, hentry, _⟩ := hbuild hok hfits
    have hgg : g' = g := congrArg State.genOut (Host.Outcome.next.inj (hexec.symm.trans hg))
    subst hgg
    intro k
    rw [loadTable_getElem_of_length s.table hlen k]
    exact hentry k.val (by omega)
  · have hexec := hfail (by rw [not_and_or, Bool.not_eq_true, Nat.not_le] at halloc; exact halloc)
    have hhalted : Phase.halted = s.phase := congrArg State.phase (Host.Outcome.next.inj (hexec.symm.trans hg))
    cases hhalted.trans hphase

/-- The first entry of the drone table has no red: the seed's channel is below 10000. -/
theorem droneColorAt_zero {c : Config} {t : DroneTable} (h : DroneTableBuilt c t) {k : Fin 100} (hk : k.val = 0) :
    droneColorAt t k = Color.off := by
  obtain ⟨hred, _, _⟩ := h k
  have hseed : c.droneColor.r.toNat < 256 := c.droneColor.r.isLt
  have hzero : t[k.val].r = 0 := BitVec.eq_of_toNat_eq (by rw [hred, hk, Nat.div_eq_of_lt (by omega)]; rfl)
  simp [droneColorAt, hzero, Color.off]

/-! ## Each field of the invariant after a block step -/

/-- A block step leaves the FIFO, or a decode step empties it (40_frame_decoder.md R202). -/
theorem BlockStep.rx_eq_or_nil {s t : State} (h : BlockStep s t) : t.rx = s.rx ∨ t.rx = [] := by
  by_cases hp : s.phase = .idle
  · cases h with
    | wait => exact .inl rfl
    | drop | droneOff | droneOn | note => exact .inr (by simp)
    | initFail hp' | initDone hp' | allOff hp' | droneEntry hp' | droneShow hp' | droneWait hp' | flashShow hp'
    | flashWait hp' => cases hp.symm.trans hp'
  · exact .inl (h.decodesNothing hp).rx

/-- The latch and the flash duration are as they were; or the latch's kind is not NOTE and the duration is as it was; or
both hold the operands of an accepted NOTE (R39). -/
theorem BlockStep.latch_cases {s t : State} (h : BlockStep s t) :
    ((t.cmd = s.cmd ∨ t.cmd.kind ≠ .note) ∧ t.flDur = s.flDur)
      ∨ ∃ (idx : Fin 12) (v : Nat), v ≤ 9999999 ∧ t.cmd = ⟨.note, BitVec.ofNat 4 idx.val, BitVec.ofNat 32 v⟩
        ∧ t.flDur = BitVec.ofNat 32 v := by
  by_cases hp : s.phase = .idle
  · cases h with
    | wait | drop => exact .inl ⟨.inl (by simp), by simp⟩
    | droneOff | droneOn => exact .inl ⟨.inr (by simp), by simp⟩
    | note _ _ idx dur v hv => exact .inr ⟨idx, v, parseDuration_le hv, by simp, by simp⟩
    | initFail hp' | initDone hp' | allOff hp' | droneEntry hp' | droneShow hp' | droneWait hp' | flashShow hp'
    | flashWait hp' => cases hp.symm.trans hp'
  · have hkeeps := h.decodesNothing hp
    exact .inl ⟨.inl hkeeps.cmd, hkeeps.flDur⟩

theorem Inv.latch_of_blockStep {s t : State} (hinv : Inv s) (h : BlockStep s t) :
    t.cmd.kind = .note → t.cmd.note.toNat ≤ 11 ∧ t.cmd.dur.toNat ≤ 9999999 := by
  intro hkind
  rcases h.latch_cases with ⟨hcmd | hother, _⟩ | ⟨idx, v, hv, hcmd, _⟩
  · rw [hcmd] at hkind ⊢
    exact hinv.latch hkind
  · exact absurd hkind hother
  · have hidx : idx.val < 12 := idx.isLt
    simp only [hcmd, BitVec.toNat_ofNat]
    omega

theorem Inv.flDur_of_blockStep {s t : State} (hinv : Inv s) (h : BlockStep s t) : t.flDur.toNat ≤ 9999999 := by
  rcases h.latch_cases with ⟨_, hdur⟩ | ⟨_, v, hv, _, hdur⟩
  · rw [hdur]
    exact hinv.flDur
  · rw [hdur, BitVec.toNat_ofNat]
    omega

/-- Added events are holds, commits or the acknowledgment, so still only acknowledgments have been sent (R32). -/
theorem Inv.acks_of_adds {s t : State} (hinv : Inv s) {new : List Event} (htrace : t.trace = s.trace ++ new)
    (hadds : Adds s t new) : ∀ b, .tx b ∈ t.trace → b = 0x31 := by
  intro b hb
  rw [htrace, List.mem_append] at hb
  rcases hb with hold | hnew
  · exact hinv.acks b hold
  · cases hadds with
    | ack => simpa [ackByte] using hnew
    | silent | commit | hold | holdCommit => simp at hnew

theorem Inv.table_of_blockStep {s t : State} (hinv : Inv s) (h : BlockStep s t) (hhalt : t.phase ≠ .halted) :
    DroneTableBuilt t.cfg t.table := by
  have hlive : s.phase ≠ .halted := fun hp => not_blockStep_of_halted hp h
  obtain ⟨hcfg, _, htable, _⟩ := h.keepsConstants
  by_cases hp : s.phase = .init
  · cases h with
    | initDone _ g hg =>
      have hbuilt := droneTableBuilt_of_exec hp hinv.startup hg
      rw [retire_genOut_of_init g hp]
      exact hbuilt
    | initFail => exact absurd rfl hhalt
    | wait hp' | drop hp' | droneOff hp' | droneOn hp' | note hp' | allOff hp' | droneEntry hp' | droneShow hp'
    | droneWait hp' | flashShow hp' | flashWait hp' => cases hp.symm.trans hp'
  · rw [hcfg, htable hp]
    exact hinv.table hp hlive

/-- Only the failing startup step enters `HALTED` (60_exceptions.md R510). -/
theorem BlockStep.errCode_of_halted {s t : State} (h : BlockStep s t) (hhalt : t.phase = .halted) :
    t.errCode = .allocFail := by
  have harrow := h.phaseArrow
  rw [hhalt] at harrow
  generalize hp : s.phase = p at harrow
  cases harrow with
  | stay => exact absurd h (not_blockStep_of_halted hp)
  | initFail =>
    cases h with
    | initFail => rfl
    | initDone _ g => rw [retire_genOut_of_init g hp] at hhalt; cases hhalt
    | wait hp' | drop hp' | droneOff hp' | droneOn hp' | note hp' | allOff hp' | droneEntry hp' | droneShow hp'
    | droneWait hp' | flashShow hp' | flashWait hp' => cases hp.symm.trans hp'

/-- A pass ends at drone step 0 (R343). -/
theorem droneWaitStep_of_dark {s : State} (h : darkPhase (droneWaitStep s).phase = true) : s.k.val = 0 := by
  rw [droneWaitStep_eq] at h
  rcases nextDroneStep_cases s.dir s.k (s.stop || decide (0 < s.rx.length)) with
    ⟨_, _, e⟩ | ⟨_, _, e⟩ | ⟨_, _, e⟩ | ⟨_, hk, _, _⟩ | ⟨_, hk, _, _⟩
  case inr.inr.inr.inl | inr.inr.inr.inr => exact hk
  all_goals simp [e, darkPhase] at h

/-- Pixels of a dark phase are `OFF` after a block step (R52): it cleared them, or they were `OFF` before, or a drone pass
ended, whose last step showed the table's first entry. -/
theorem Inv.dark_of_blockStep {s t : State} (hinv : Inv s) (h : BlockStep s t) (hdark : darkPhase t.phase = true) :
    t.pix = uniformPixels Color.off := by
  have of_dark {p : Phase} (hp : s.phase = p) (hd : darkPhase p = true) : s.pix = uniformPixels Color.off :=
    hinv.dark (by rw [hp, hd])
  cases h with
  | wait hp | initFail hp => exact of_dark hp rfl
  | drop hp | droneOff hp | droneOn hp | note hp => simpa using of_dark hp rfl
  | initDone hp g => rw [retire_genOut_of_init g hp]; exact of_dark hp rfl
  | droneEntry hp => rcases droneEntryStep_cases s with he | he <;> rw [he] <;> exact of_dark hp rfl
  | allOff | flashWait => rfl
  | droneShow | flashShow => cases hdark
  | droneWait hp =>
    have hbuilt : DroneTableBuilt s.cfg s.table := hinv.table (by simp [hp]) (by simp [hp])
    rw [droneWaitStep_eq]
    exact (hinv.shown hp).trans (by rw [droneColorAt_zero hbuilt (droneWaitStep_of_dark hdark)])

/-- Only DRONE_SHOW leads to DRONE_WAIT, and it shows its step of the table (41_pattern_engine.md R341). -/
theorem BlockStep.shown {s t : State} (h : BlockStep s t) (hwait : t.phase = .droneWait) :
    t.pix = uniformPixels (droneColorAt t.table t.k) := by
  cases h with
  | droneShow => rfl
  | wait hp => cases hp.symm.trans hwait
  | drop _ _ e _ ha => rw [raise_phase, if_neg ha] at hwait; cases hwait
  | droneOff | droneOn | note | initFail | allOff | flashShow | flashWait => cases hwait
  | initDone hp g => rw [retire_genOut_of_init g hp] at hwait; cases hwait
  | droneEntry => rcases droneEntryStep_cases s with he | he <;> rw [he] at hwait <;> cases hwait
  | droneWait => rcases droneWaitStep_phase s with he | he <;> rw [he] at hwait <;> cases hwait

/-! ## The invariant -/

theorem Inv.of_blockStep {s t : State} (hinv : Inv s) (h : BlockStep s t) : Inv t := by
  obtain ⟨hcfg, hword, _, _⟩ := h.keepsConstants
  obtain ⟨new, htrace, hadds⟩ := h.adds
  exact {
    rxFits := fun d hd => by
      rw [hcfg] at hd
      rcases h.rx_eq_or_nil with hrx | hrx
      · rw [hrx]; exact hinv.rxFits d hd
      · simp [hrx]
    latch := hinv.latch_of_blockStep h
    flDur := hinv.flDur_of_blockStep h
    clock := by rw [hadds.clock, htrace, heldTime_append, hinv.clock]
    acks := hinv.acks_of_adds htrace hadds
    startup := by rw [hword, hcfg, hinv.startup]
    table := fun _ => hinv.table_of_blockStep h
    haltCause := h.errCode_of_halted
    dark := hinv.dark_of_blockStep h
    shown := h.shown }

/-- The invariant speaks of the FIFO in one clause, and not of the schedule. -/
theorem Inv.of_rx_turns {s : State} (hinv : Inv s) {rx : List Byte} (ts : List Turn)
    (hfits : ∀ d, s.cfg.rxDepth = some d → rx.length ≤ d) : Inv { s with rx := rx, turns := ts } := by
  obtain ⟨_, hlatch, hdur, hclock, hacks, hword, htable, hhalt, hdark, hshown⟩ := hinv
  exact ⟨hfits, hlatch, hdur, hclock, hacks, hword, htable, hhalt, hdark, hshown⟩

theorem Inv.of_turns {s : State} (hinv : Inv s) (ts : List Turn) : Inv { s with turns := ts } :=
  hinv.of_rx_turns ts hinv.rxFits

/-- `HostSend` keeps the FIFO within its depth (R31). -/
theorem Inv.of_hostSend {s : State} (hinv : Inv s) (b : Byte) : Inv (hostSend b s) := by
  rcases hostSend_cases b s with ⟨hroom, hs⟩ | ⟨_, hs⟩
  · rw [hs]
    refine hinv.of_rx_turns s.turns fun d hd => ?_
    simp only [hd, fifoHasRoom_bounded, decide_eq_true_eq] at hroom
    simpa using hroom
  · rwa [hs]

/-- Settles O48: a turn is the host's (`Inv.of_hostSend`) or a block step (`Inv.of_blockStep`), at the state with the turn
taken. -/
theorem stepKeepsTheInvariant : Obligations.StepKeepsTheInvariant := by
  intro s t hinv hstep
  rcases step_cases hstep with ⟨b, rest, _, rfl⟩ | ⟨ts, _, hb⟩
  · exact (hinv.of_turns rest).of_hostSend b
  · exact (hinv.of_turns ts).of_blockStep hb

theorem inv_resetWith (c : Config) (seed : PrngState) : Inv (State.resetWith c seed) where
  rxFits := fun _ _ => Nat.zero_le _
  latch := fun hnote => by cases hnote
  flDur := Nat.zero_le _
  clock := rfl
  acks := fun _ hb => by cases hb
  startup := rfl
  table := fun hinit => absurd rfl hinit
  haltCause := fun hhalt => by cases hhalt
  dark := fun _ => rfl
  shown := fun hwait => by cases hwait

/-- Settles O49: each clause speaks of a value of reset, or its premise is false there. -/
theorem resetMeetsTheInvariant : Obligations.ResetMeetsTheInvariant :=
  ⟨inv_resetWith, inv_resetWith Config.default Config.prngSeed⟩

/-- Settles O50: the invariant holds along the run, and `IDLE` is a dark phase. -/
theorem idlePixelsAreOff : Obligations.IdlePixelsAreOff := by
  intro c seed ts m t hrun hidle i
  have hinv : Inv t := run_keeps stepKeepsTheInvariant ((inv_resetWith c seed).of_turns ts) hrun
  have hpix : t.pix = uniformPixels Color.off := hinv.dark (by rw [hidle]; rfl)
  rw [hpix, uniformPixels_getElem _ _ i.isLt, Color.off]

end Sys2Proof.Machine
end

section
/-! PROOFS. The commands that complete, and the state that nobody can observe: it influences no step (spec/00_scope.md R17,
10_state.md R38, R39, 40_frame_decoder.md R210, R211, R214, 60_exceptions.md R501). -/

namespace Sys2Proof.Machine

open Sys2Proof

/-! ## The commands that complete -/

/-- Settles O10: acceptance into ALL_OFF with the latch's kind, written out. -/
theorem droneOffCompletes : Obligations.DroneOffCompletes := fun _ => rfl

/-- Settles O11: acceptance into DRONE_ENTRY with the latch's kind, written out. -/
theorem droneOnCompletes : Obligations.DroneOnCompletes := fun _ => rfl

/-- A NOTE with a valid index and a numeral is accepted (R214). -/
theorem exec_note_of_valid {idx : Byte} {dur : DurField} {v : Nat} {s : State} (hidx : idx.toNat < 12)
    (hdur : parseDuration s.cfg.acceptEmptyDuration dur = some v) :
    exec (.note idx dur) s = .next (accept .flashShow (latchNote ⟨idx.toNat, hidx⟩ v s)) := by
  rcases execNote_cases idx dur s with ⟨_, w, hw, he⟩ | ⟨_, hnone, _⟩ | ⟨hover, _⟩
  · cases hdur.symm.trans hw
    exact he
  · cases hdur.symm.trans hnone
  · omega

/-- Settles O12: the latched index and duration fit their registers (`toNat_ofNat_of_parseDuration`). -/
theorem noteCompletes : Obligations.NoteCompletes := by
  intro s idx dur v hvalid hdur
  refine ⟨BitVec.ofNat 4 idx.toNat, BitVec.ofNat 32 v, ?_, toNat_ofNat_of_parseDuration hdur, ?_⟩
  · rw [BitVec.toNat_ofNat, Nat.mod_eq_of_lt (by omega)]
  · rw [exec_note_of_valid (Nat.lt_succ_of_le hvalid) hdur]
    rfl

/-! ## Indistinguishable states under the operations -/

/-- A generator operation is one table, stored in every state that can allocate it (42_curve_generator.md R400, R410). -/
theorem exec_control_eq_generate (w : GenWord) :
    ∃ (n : Nat) (g : List Color), ∀ s : State, exec (decodeControl w) s = generate n g s := by
  unfold decodeControl
  split
  · exact ⟨_, _, fun _ => rfl⟩
  split
  · exact ⟨_, _, fun _ => rfl⟩
  split
  · exact ⟨_, _, fun _ => rfl⟩
  · exact ⟨_, _, fun _ => rfl⟩

/-- What can be observed or read of a state: every other field is overwritten by one fixed value. -/
def State.observable (s : State) : State :=
  { s with frame := Vector.replicate 11 0, fcount := 0, cmd := ⟨.none, 0, 0⟩, errCode := .none, genOut := [], freeCount := 0 }

theorem obsEq_iff_observable_eq {s t : State} : ObsEq s t ↔ s.observable = t.observable := by
  constructor
  · rintro ⟨hrx, hphase, hdir, hk, hstop, hcolor, hdur, hprng, hclock, hpix, htable, hcfg, hword, htrace, hturns⟩
    simp only [State.observable, hrx, hphase, hdir, hk, hstop, hcolor, hdur, hprng, hclock, hpix, htable, hcfg, hword,
      htrace, hturns]
  · intro h
    simp only [State.observable, State.mk.injEq, true_and, and_true] at h
    obtain ⟨hrx, hphase, hdir, hk, hstop, hcolor, hdur, hprng, hclock, hpix, htable, hcfg, hword, htrace, hturns⟩ := h
    exact ⟨hrx, hphase, hdir, hk, hstop, hcolor, hdur, hprng, hclock, hpix, htable, hcfg, hword, htrace, hturns⟩

/-- An operation whose observable result is computed from the observable part keeps states indistinguishable. -/
theorem ObsEq.map {f : State → State} (hf : ∀ s, (f s).observable = (f s.observable).observable) {s t : State}
    (h : ObsEq s t) : ObsEq (f s) (f t) := by
  rw [obsEq_iff_observable_eq] at h ⊢
  rw [hf s, hf t, h]

theorem ObsEq.readFrame {s t : State} (h : ObsEq s t) : ObsEq (readFrame s) (readFrame t) :=
  h.map fun s => by rw [readFrame_eq, readFrame_eq]; rfl

/-- Which decode-time error is taken cannot be observed. -/
theorem ObsEq.raise {s t : State} (h : ObsEq s t) (e : ErrCode) : ObsEq (raise e s) (raise e t) := h.map fun _ => rfl

theorem ObsEq.hostSend {s t : State} (h : ObsEq s t) (b : Byte) : ObsEq (hostSend b s) (hostSend b t) :=
  h.map fun s => by simp only [Machine.hostSend, apply_ite State.observable]; rfl

theorem ObsEq.droneEntryStep {s t : State} (h : ObsEq s t) : ObsEq (droneEntryStep s) (droneEntryStep t) :=
  h.map fun s => by simp only [Machine.droneEntryStep, apply_ite State.observable]; rfl

theorem ObsEq.droneWaitStep {s t : State} (h : ObsEq s t) : ObsEq (droneWaitStep s) (droneWaitStep t) :=
  h.map fun s => by rw [droneWaitStep_eq, droneWaitStep_eq]; rfl

/-- One stored result is retired alike in both states. -/
theorem ObsEq.retire_genOut {s t : State} (h : ObsEq s t) (g : List Color) :
    ObsEq (retire { s with genOut := g }) (retire { t with genOut := g }) :=
  h.map (f := fun s => retire { s with genOut := g }) fun s => by
    simp only [retire, apply_ite State.observable]; rfl

/-! ## Indistinguishable states under a step -/

/-- Where the first outcome is a next state, so is the second, and nobody can tell them apart. -/
def OutcomeObsEq (o p : Host.Outcome State Fault Refusal) : Prop :=
  ∀ s', o = .next s' → ∃ t', p = .next t' ∧ ObsEq s' t'

theorem OutcomeObsEq.next {s t : State} (h : ObsEq s t) : OutcomeObsEq (.next s) (.next t) := by
  rintro s' ⟨⟩
  exact ⟨t, rfl, h⟩

/-- NOTE reads its operands and the configuration only (R212 to R214). -/
theorem ObsEq.exec_note {s t : State} (h : ObsEq s t) (idx : Byte) (dur : DurField) :
    OutcomeObsEq (exec (.note idx dur) s) (exec (.note idx dur) t) := by
  by_cases hover : 11 < idx.toNat
  · rw [exec_note_of_index_over dur s hover, exec_note_of_index_over dur t hover]
    exact .next (h.raise _)
  · cases hdur : parseDuration s.cfg.acceptEmptyDuration dur with
    | none =>
      rw [exec_note_of_no_numeral (by omega) hdur, exec_note_of_no_numeral (by omega) (h.cfg ▸ hdur)]
      exact .next (h.raise _)
    | some v =>
      rw [exec_note_of_valid (by omega) hdur, exec_note_of_valid (by omega) (h.cfg ▸ hdur)]
      exact .next (h.map (f := fun s => accept .flashShow (latchNote ⟨idx.toNat, by omega⟩ v s)) fun _ => rfl)

/-- A frame's instruction depends on nothing unobservable. -/
theorem ObsEq.exec_frame {s t : State} (h : ObsEq s t) {bytes : List Byte} {i : Instr} (hdec : decodeFrame bytes = .ok i) :
    OutcomeObsEq (exec i s) (exec i t) := by
  rcases decodeFrame_cases bytes with ⟨e, hcase⟩ | hcase | hcase | hcase <;> cases hcase.symm.trans hdec
  · exact .next (h.map (f := fun s => accept .allOff (latchKind .droneOff s)) fun _ => rfl)
  · exact .next (h.map (f := fun s => accept .droneEntry (latchKind .droneOn s)) fun _ => rfl)
  · exact h.exec_note _ _

/-- The startup's operation depends on nothing unobservable, and its result, which nobody can observe, is the same. -/
theorem ObsEq.retire_exec_control {s t : State} (h : ObsEq s t) (w : GenWord) :
    OutcomeObsEq (retireOutcome (exec (decodeControl w) s)) (retireOutcome (exec (decodeControl w) t)) := by
  obtain ⟨n, g, hexec⟩ := exec_control_eq_generate w
  have hcan : canAllocate s.cfg n = canAllocate t.cfg n := by rw [h.cfg]
  simp only [hexec, generate, hcan]
  split
  · exact .next (h.retire_genOut g)
  · rw [retireOutcome, retireOutcome, retire_of_ne (by simp), retire_of_ne (by simp)]
    exact .next (h.raise _)

/-- In `IDLE` with an empty FIFO the block's turn is a wait (10_state.md R51, log 2). -/
theorem step_of_wait {s s0 : State} (hturn : BlockTurn s s0) (hphase : s0.phase = .idle) (hrx : s0.rx = []) :
    step s = .next s0 :=
  step_of_blockTurn_done hturn (by simp [fetchBlock, hphase, fetchFrame, rxCount, hrx])

/-- The schedule is observable, so the next turn is the same agent's. -/
theorem ObsEq.exists_blockTurn {s t s0 : State} (h : ObsEq s t) (hturn : BlockTurn s s0) :
    ∃ t0, BlockTurn t t0 ∧ ObsEq s0 t0 := by
  rcases hturn with ⟨hturns, rfl⟩ | ⟨rest, hturns, rfl⟩
  · exact ⟨t, .inl ⟨h.turns.symm.trans hturns, rfl⟩, h⟩
  · exact ⟨_, .inr ⟨rest, h.turns.symm.trans hturns, rfl⟩,
      h.map (f := fun s => { s with turns := rest }) fun _ => rfl⟩

/-- A decode step reads the FIFO, which is observable. -/
theorem ObsEq.step_of_idle {s t s0 t0 : State} (h : ObsEq s0 t0) (hs : BlockTurn s s0) (ht : BlockTurn t t0)
    (hphase : s0.phase = .idle) : OutcomeObsEq (step s) (step t) := by
  have hphase' : t0.phase = .idle := h.phase.symm.trans hphase
  by_cases hrx : s0.rx = []
  · rw [step_of_wait hs hphase hrx, step_of_wait ht hphase' (h.rx.symm.trans hrx)]
    exact .next h
  · rw [step_of_decode hs hphase hrx, step_of_decode ht hphase' (h.rx ▸ hrx), ← h.rx]
    cases hdec : decodeFrame (s0.rx.take 11) with
    | error e => exact .next (h.readFrame.raise _)
    | ok i =>
      simp only [retire_of_frame hdec]
      exact h.readFrame.exec_frame hdec

/-- A block step depends on nothing unobservable: one case per phase. -/
theorem ObsEq.step_of_blockTurn {s t s0 t0 : State} (h : ObsEq s0 t0) (hs : BlockTurn s s0) (ht : BlockTurn t t0) :
    OutcomeObsEq (step s) (step t) := by
  have handler {f : State → State} (hblock : ∀ u : State, u.phase = s0.phase → fetchBlock u = .done (.next (f u)))
      (hf : ObsEq (f s0) (f t0)) : OutcomeObsEq (step s) (step t) := by
    rw [step_of_blockTurn_done hs (hblock s0 rfl), step_of_blockTurn_done ht (hblock t0 h.phase.symm)]
    exact .next hf
  cases hp : s0.phase with
  | init =>
    rw [step_of_init hs hp, step_of_init ht (h.phase.symm.trans hp), ← h.genWord]
    exact h.retire_exec_control _
  | idle => exact h.step_of_idle hs ht hp
  | allOff => exact handler (fun _ hu => fetchBlock_allOff (hu.trans hp)) (h.map fun _ => rfl)
  | droneEntry => exact handler (fun _ hu => fetchBlock_droneEntry (hu.trans hp)) h.droneEntryStep
  | droneShow => exact handler (fun _ hu => fetchBlock_droneShow (hu.trans hp)) (h.map fun _ => rfl)
  | droneWait => exact handler (fun _ hu => fetchBlock_droneWait (hu.trans hp)) h.droneWaitStep
  | flashShow => exact handler (fun _ hu => fetchBlock_flashShow (hu.trans hp)) (h.map fun _ => rfl)
  | flashWait => exact handler (fun _ hu => fetchBlock_flashWait (hu.trans hp)) (h.map fun _ => rfl)
  | halted =>
    rw [step_of_halted hs hp]
    exact fun _ hnext => nomatch hnext

/-- Settles O57: the turn is the same agent's in both states, and neither the host's (`ObsEq.hostSend`) nor the block's
(`ObsEq.step_of_blockTurn`) depends on anything unobservable. -/
theorem unobservableStateHasNoInfluence : Obligations.UnobservableStateHasNoInfluence := by
  intro s t s' h hstep
  rcases fetch_cases s with ⟨b, rest, hturns, _⟩ | ⟨ts, hturn, _⟩
  · rw [step_of_hostTurn hturns] at hstep
    cases hstep
    have htaken : ObsEq { s with turns := rest } { t with turns := rest } :=
      h.map (f := fun s => { s with turns := rest }) fun _ => rfl
    exact ⟨_, step_of_hostTurn (h.turns.symm.trans hturns), htaken.hostSend b⟩
  · obtain ⟨t0, hturn', h0⟩ := h.exists_blockTurn hturn
    exact h0.step_of_blockTurn hturn hturn' s' hstep

end Sys2Proof.Machine
end

section
/-! PROOFS. Decoding undoes encoding, on bytes and in the numbering of the opcode table, and a placed word is what the next
step runs (spec/30_encoding.md R130, R139, R142 to R145; log 12, log 17). -/

namespace Sys2Proof.Machine

open Sys2Proof

/-! ## Decoding an encoding -/

/-- Decoding undoes encoding: one frame or one control word per instruction. -/
theorem decode_encode (i : Instr) : decode (encode i) = .ok i := by
  cases i with
  | note idx dur =>
    have hbyte : byteAt (frameOf cmdNote idx dur.toList) 10 = endMarker := by
      rw [Laws.durField_toList]
      rfl
    have hlen : ¬ (frameOf cmdNote idx dur.toList).length < 11 := by simp [frameOf]
    change decodeFrame (frameOf cmdNote idx dur.toList) = _
    rw [decodeFrame, if_neg hlen, hbyte, Laws.durField_frameOf]
    rfl
  | droneOff | droneOn | genLinear | genQuadratic | genMinMaxQ | genExponential => rfl

/-! ## The numbers of frames and control words -/

theorem wordOfFrame_concat (bytes : List Byte) (b : Byte) :
    wordOfFrame (bytes ++ [b]) = wordOfFrame bytes * 256 + b.toNat := by
  simp [wordOfFrame]

/-- Dividing by a power of 256 drops as many bytes from the end. -/
theorem wordOfFrame_append_div (bytes rest : List Byte) :
    wordOfFrame (bytes ++ rest) / 256 ^ rest.length = wordOfFrame bytes := by
  induction rest using List.reverseRecOn with
  | nil => simp
  | append_singleton rest b ih =>
    have hb : b.toNat < 256 := b.isLt
    have hdrop : (wordOfFrame (bytes ++ rest) * 256 + b.toNat) / 256 = wordOfFrame (bytes ++ rest) := by omega
    rw [← List.append_assoc, wordOfFrame_concat, List.length_append, List.length_singleton, Nat.pow_succ',
      ← Nat.div_div_eq_div_mul, hdrop, ih]

/-- The lowest byte of a frame's number is the frame's last. -/
theorem ofNat_wordOfFrame_concat (bytes : List Byte) (b : Byte) : BitVec.ofNat 8 (wordOfFrame (bytes ++ [b])) = b := by
  have hb : b.toNat < 256 := b.isLt
  apply BitVec.eq_of_toNat_eq
  rw [BitVec.toNat_ofNat, wordOfFrame_concat]
  omega

/-- The eleven bytes of a frame's number are the frame. -/
theorem frameOfWord_wordOfFrame {bytes : List Byte} (h : bytes.length = 11) : frameOfWord (wordOfFrame bytes) = bytes := by
  apply List.ext_getElem
  · simp [frameOfWord, h]
  · intro j _ hj
    have hsplit : bytes = (bytes.take j ++ [bytes[j]]) ++ bytes.drop (j + 1) := by
      rw [List.take_append_getElem, List.take_append_drop]
    have hrest : (bytes.drop (j + 1)).length = 10 - j := by rw [List.length_drop]; omega
    have hword : wordOfFrame bytes / 256 ^ (10 - j) = wordOfFrame (bytes.take j ++ [bytes[j]]) := by
      conv_lhs => rw [hsplit, ← hrest]
      exact wordOfFrame_append_div _ _
    simp only [frameOfWord, List.getElem_map, List.getElem_range, hword, ofNat_wordOfFrame_concat]

/-- Twenty-four bits give a color back, whatever stands above them. -/
theorem ofPacked_packed_add (a : Color) (high : Nat) : Color.ofPacked (a.packed + 2 ^ 24 * high) = a := by
  have hg : a.g.toNat < 256 := a.g.isLt
  have hb : a.b.toNat < 256 := a.b.isLt
  have hchannel {v : Nat} {x : BitVec 8} (h : v % 256 = x.toNat) : BitVec.ofNat 8 v = x :=
    BitVec.eq_of_toNat_eq (by rw [BitVec.toNat_ofNat]; exact h)
  have hr : a.r.toNat < 256 := a.r.isLt
  simp only [Color.ofPacked, Color.packed]
  rw [hchannel (x := a.r) (by omega), hchannel (x := a.g) (by omega), hchannel (x := a.b) (by omega)]

theorem packed_lt (a : Color) : a.packed < 2 ^ 24 := by
  have hr : a.r.toNat < 256 := a.r.isLt
  have hg : a.g.toNat < 256 := a.g.isLt
  have hb : a.b.toNat < 256 := a.b.isLt
  rw [Color.packed]
  omega

/-- The fields of a control word's bits are the control word: `CURVE`, `A`, `B` and `N` do not overlap (log 12). -/
theorem genWordOfWord_wordOfGenWord (g : GenWord) : genWordOfWord (wordOfGenWord g) = g := by
  have hcurve : g.curve.toNat < 4 := g.curve.isLt
  have ha := packed_lt g.a
  have hb := packed_lt g.b
  have hlow : BitVec.ofNat 2 (wordOfGenWord g) = g.curve :=
    BitVec.eq_of_toNat_eq (by rw [BitVec.toNat_ofNat, wordOfGenWord]; omega)
  have hA : wordOfGenWord g / 2 ^ 2 = g.a.packed + 2 ^ 24 * (g.b.packed + 2 ^ 24 * g.n) := by
    rw [wordOfGenWord]
    omega
  have hB : wordOfGenWord g / 2 ^ 26 = g.b.packed + 2 ^ 24 * g.n := by
    rw [wordOfGenWord]
    omega
  have hN : wordOfGenWord g / 2 ^ 50 = g.n := by
    rw [wordOfGenWord]
    omega
  rw [genWordOfWord, hlow, hA, hB, hN, ofPacked_packed_add, ofPacked_packed_add]

/-! ## The two forms of an instruction -/

/-- An instruction is encoded as the eleven bytes of a frame, or as a control word; each decodes to it, and the opcode table
numbers a frame with 88 bits and a control word with 8. -/
theorem encode_cases (i : Instr) :
    (∃ bytes, bytes.length = 11 ∧ decodeFrame bytes = .ok i ∧ encodeTableWord i = (88, wordOfFrame bytes))
      ∨ ∃ g, decodeControl g = i ∧ encodeTableWord i = (8, wordOfGenWord g) := by
  have hdecode := decode_encode i
  cases henc : encode i with
  | frame bytes =>
    rw [henc] at hdecode
    have hlen : bytes.length = 11 := by
      cases i <;> cases henc <;> simp [frameOf]
    exact .inl ⟨bytes, hlen, hdecode, by rw [encodeTableWord, henc]; rfl⟩
  | control g =>
    rw [henc] at hdecode
    exact .inr ⟨g, Except.ok.inj hdecode, by rw [encodeTableWord, henc]⟩

theorem decodeTableWord_encodeTableWord (i : Instr) :
    decodeTableWord (encodeTableWord i).1 (encodeTableWord i).2 = some i := by
  rcases encode_cases i with ⟨bytes, hlen, hdecode, henc⟩ | ⟨g, hdecode, henc⟩
  · simp only [henc, decodeTableWord, frameBits, if_pos, frameOfWord_wordOfFrame hlen, hdecode]
  · simp [henc, decodeTableWord, frameBits, genWordOfWord_wordOfGenWord, hdecode]

/-- Settles O1: on bytes and control words by `decode_encode`, in the table's numbering by
`decodeTableWord_encodeTableWord`. -/
theorem decodeOfEncodeIsInstruction : Obligations.DecodeOfEncodeIsInstruction := fun i =>
  ⟨decode_encode i, decodeTableWord_encodeTableWord i⟩

/-- Settles O58: a placed frame is what the decode step reads, and a placed control word is what the `INIT` step issues. -/
theorem placedWordIsRunNext : Obligations.PlacedWordIsRunNext := by
  intro s i
  rcases encode_cases i with ⟨bytes, hlen, hdecode, henc⟩ | ⟨g, hdecode, henc⟩
  · have hplaced : s.withFetchWord 88 (wordOfFrame bytes) = placeFrame bytes s := by
      rw [State.withFetchWord, frameBits, if_pos rfl, frameOfWord_wordOfFrame hlen]
    have hturn : BlockTurn (placeFrame bytes s) { s with phase := .idle, rx := bytes } := .inr ⟨s.turns, rfl, rfl⟩
    have hpending : bytes ≠ [] := List.ne_nil_of_length_pos (by omega)
    have hread : decodeFrame (bytes.take 11) = .ok i := by rwa [List.take_of_length_le hlen.le]
    refine ⟨readFrame { s with phase := .idle, rx := bytes }, ?_, by simp, by simp, by simp, by simp, by simp⟩
    rw [henc, hplaced, retire_of_frame hdecode]
    exact step_of_decoded hturn rfl hpending hread
  · have hplaced : s.withFetchWord 8 (wordOfGenWord g) = placeControl g s := by
      rw [State.withFetchWord, frameBits, if_neg (by decide), genWordOfWord_wordOfGenWord]
    have hturn : BlockTurn (placeControl g s) { s with phase := .init, genWord := g } := .inr ⟨s.turns, rfl, rfl⟩
    refine ⟨{ s with phase := .init, genWord := g }, ?_, rfl, rfl, rfl, rfl, rfl⟩
    rw [henc, hplaced, step_of_init hturn rfl, hdecode]

/-! ## Frames and control words written out -/

/-- The bytes of a frame of eleven, one by one. -/
theorem eq_bytes_of_length {bytes : List Byte} (h : bytes.length = 11) :
    bytes = [bytes[0], bytes[1], bytes[2], bytes[3], bytes[4], bytes[5], bytes[6], bytes[7], bytes[8], bytes[9],
      bytes[10]] := by
  apply List.ext_getElem
  · simp [h]
  · intro j hj _
    have hj : j < 11 := by omega
    interval_cases j <;> rfl

/-- What the bytes of a frame are that decodes to an instruction: the markers, and the command byte of the instruction. -/
theorem decodeFrame_ok_cases {bytes : List Byte} {i : Instr} (h : 11 ≤ bytes.length) (hi : decodeFrame bytes = .ok i) :
    bytes[0] = 0x25 ∧ bytes[10] = 0x26
      ∧ ((bytes[1] = 0x30 ∧ i = .droneOff) ∨ (bytes[1] = 0x31 ∧ i = .droneOn)
        ∨ (bytes[1] = 0x32
          ∧ i = .note bytes[2] #v[bytes[3], bytes[4], bytes[5], bytes[6], bytes[7], bytes[8], bytes[9]])) := by
  rw [decodeFrame_of_whole h] at hi
  by_cases hstart : bytes[0] = 0x25
  · by_cases hend : bytes[10] = 0x26
    · rw [if_neg (not_not_intro hstart), if_neg (not_not_intro hend)] at hi
      refine ⟨hstart, hend, ?_⟩
      by_cases hoff : bytes[1] = 0x30
      · rw [if_pos hoff] at hi
        exact .inl ⟨hoff, (Except.ok.inj hi).symm⟩
      · by_cases hon : bytes[1] = 0x31
        · rw [if_neg hoff, if_pos hon] at hi
          exact .inr (.inl ⟨hon, (Except.ok.inj hi).symm⟩)
        · by_cases hnote : bytes[1] = 0x32
          · rw [if_neg hoff, if_neg hon, if_pos hnote] at hi
            exact .inr (.inr ⟨hnote, (Except.ok.inj hi).symm⟩)
          · rw [if_neg hoff, if_neg hon, if_neg hnote] at hi
            cases hi
    · rw [if_neg (not_not_intro hstart), if_pos hend] at hi
      cases hi
  · rw [if_pos hstart] at hi
    cases hi

/-- Settles O5: what decodes to an instruction has its markers and command byte (`decodeFrame_ok_cases`), which for a NOTE
leaves the operands' bytes only; the converse for a NOTE is `decode_encode`. -/
theorem elevenBytesDecodeExactlyAsEncoded : Obligations.ElevenBytesDecodeExactlyAsEncoded := by
  intro bytes hlen
  have hwhole : 11 ≤ bytes.length := Nat.le_of_eq hlen.symm
  have hchain := decodeFrame_of_whole hwhole
  refine ⟨fun idx dur => ⟨fun hdec => ?noteEncoded, fun henc => ?noteDecoded⟩, ⟨fun hdec => ?offBytes, ?off⟩,
    ⟨fun hdec => ?onBytes, ?on⟩⟩
  case noteEncoded =>
    obtain ⟨hstart, hend, ⟨_, hi⟩ | ⟨_, hi⟩ | ⟨hcmd, hi⟩⟩ := decodeFrame_ok_cases hwhole hdec
    · cases hi
    · cases hi
    · cases hi
      refine congrArg Code.frame (Eq.trans ?_ (eq_bytes_of_length hlen).symm)
      rw [hstart, hend, hcmd]
      rfl
  case noteDecoded =>
    have hdecode := decode_encode (.note idx dur)
    rwa [henc] at hdecode
  case offBytes =>
    obtain ⟨hstart, hend, ⟨hcmd, _⟩ | ⟨_, hi⟩ | ⟨_, hi⟩⟩ := decodeFrame_ok_cases hwhole hdec
    · exact ⟨hstart, hcmd, hend⟩
    · cases hi
    · cases hi
  case onBytes =>
    obtain ⟨hstart, hend, ⟨_, hi⟩ | ⟨hcmd, _⟩ | ⟨_, hi⟩⟩ := decodeFrame_ok_cases hwhole hdec
    · cases hi
    · exact ⟨hstart, hcmd, hend⟩
    · cases hi
  case off | on =>
    rintro ⟨hstart, hcmd, hend⟩
    simp [hchain, hstart, hcmd, hend]

/-- Settles O2: each word is one closed evaluation of the decoder. -/
theorem specWordsDecodeToTheirInstructions : Obligations.SpecWordsDecodeToTheirInstructions := by
  refine ⟨rfl, rfl, rfl, ?_, ?_, ?_, ?_, ?_, ?_, ?_⟩ <;> decide

/-- Settles O3: the four values of `CURVE` are the four branches of `decodeControl`. -/
theorem everyControlWordIsAGeneratorOperation : Obligations.EveryControlWordIsAGeneratorOperation := by
  intro w
  have hcurve : ∀ c : BitVec 2, c = 0 ∨ c = 1 ∨ c = 2 ∨ c = 3 := by decide
  exact ⟨fun h => by simp [decodeControl, h], fun h => by simp [decodeControl, h], fun h => by simp [decodeControl, h],
    fun h => by simp [decodeControl, h], hcurve w.curve⟩

end Sys2Proof.Machine
end

section
/-! PROOFS. Decode steps and startup steps as the rules state them, and the bytes that have no influence on a decode step
(spec/20_memory.md R90, R107, 40_frame_decoder.md R200 to R209, 70_reset_and_hazards.md R601, R621, R622). -/

namespace Sys2Proof.Machine

open Sys2Proof

/-! ## One step -/

/-- Settles O21: the decode step runs its instruction after the read (`step_of_decoded`), of which `readFrame_shape` gives
the fields. -/
theorem decodeStepRunsTheInstruction : Obligations.DecodeStepRunsTheInstruction := by
  intro s s0 i hturn hphase hrx hdec
  obtain ⟨fr, n, hn, hfr, hread⟩ := readFrame_shape s0
  refine ⟨fr, n, hn, hfr, ?_⟩
  rw [step_of_decoded hturn hphase hrx hdec, hread]

/-- Storing a result of 100 colors makes it the drone table. -/
theorem loadTable_toList {g : List Color} (t : DroneTable) (h : g.length = 100) : (loadTable g t).toList = g := by
  apply List.ext_getElem
  · simp [h]
  · intro k _ hk
    rw [Vector.getElem_toList]
    exact loadTable_getElem_of_length t h ⟨k, by omega⟩

/-- Settles O22: the outcome is retired, which leaves a halted state and stores a complete result. -/
theorem initStepRunsTheControlWord : Obligations.InitStepRunsTheControlWord := by
  intro s s0 s1 hturn hphase hexec
  have hstep : step s = .next (retire s1) := by rw [step_of_init hturn hphase, hexec, retireOutcome]
  refine ⟨fun hhalted => ?_, fun hlen hinit => ⟨loadTable s1.genOut s1.table, ?_, loadTable_toList _ hlen⟩⟩
  · rw [hstep, retire_of_ne (by simp [hhalted])]
  · rw [hstep]
    exact congrArg _ (retire_genOut_of_init s1.genOut hinit)

/-- Settles O27: the wait of `step_of_wait`. -/
theorem idleWithoutInputWaits : Obligations.IdleWithoutInputWaits := fun _ _ => step_of_wait

/-- Settles O37: the whole DRONE_SHOW step is `droneShowStep_eq`. -/
theorem droneShowLightsAllLeds : Obligations.DroneShowLightsAllLeds := by
  intro s s0 hturn hphase
  refine ⟨uniformPixels (droneColorAt s0.table s0.k), fun i => uniformPixels_getElem _ _ i.isLt, ?_⟩
  rw [step_of_blockTurn_done hturn (fetchBlock_droneShow hphase), droneShowStep_eq]

/-- Settles O47: the two branches of the boot's check. -/
theorem bootRefusesIllFormedConfigurations : Obligations.BootRefusesIllFormedConfigurations := by
  intro raw seed
  exact ⟨fun hill => dif_neg (by simp [hill]), fun hwf => dif_pos hwf⟩

/-- Settles O59: the codes are closed values; the nine phases and the sixteen codes are enumerated. -/
theorem phaseAndErrorCodes : Obligations.PhaseAndErrorCodes := by
  refine ⟨by decide, fun p => ?_, by decide, by decide, by decide⟩
  cases p <;> rfl

/-- Settles O9: a field parses exactly when it is well formed (`exists_parseDuration_iff`). -/
theorem parsesExactlyWhenWellFormed : Obligations.ParsesExactlyWhenWellFormed := by
  intro ae dur
  rw [Bool.eq_iff_iff, Option.isSome_iff_exists, exists_parseDuration_iff]

/-! ## Bytes after the first frame -/

/-- The read of a decode step takes the first eleven bytes and forgets the rest (R201, R202). -/
theorem readFrame_of_append {s : State} {first rest : List Byte} (hlen : first.length = 11) (hrx : s.rx = first ++ rest) :
    readFrame s = readFrame { s with rx := first } := by
  have hall : first.take 11 = first := List.take_of_length_le hlen.le
  simp [readFrame_eq, hrx, hlen, hall]

/-- Settles O25: the decode step depends on the first eleven bytes through the decoder and the read
(`readFrame_of_append`). -/
theorem bytesAfterTheFirstFrameAreFlushed : Obligations.BytesAfterTheFirstFrameAreFlushed := by
  intro s s0 first rest hturn hphase hlen hrx
  have hpending : first ≠ [] := List.ne_nil_of_length_pos (by omega)
  have hturn' : BlockTurn { s with rx := first } { s0 with rx := first } := by
    rcases hturn with ⟨hturns, rfl⟩ | ⟨ts, hturns, rfl⟩
    · exact .inl ⟨hturns, rfl⟩
    · exact .inr ⟨ts, hturns, rfl⟩
  have htake : s0.rx.take 11 = first.take 11 := by rw [hrx, ← hlen, List.take_left, List.take_length]
  rw [step_of_decode hturn hphase (by simp [hrx, hpending]), step_of_decode hturn' hphase hpending,
    readFrame_of_append hlen hrx, htake]

/-! ## A split frame -/

/-- A well-formed FIFO is unbounded or holds a frame (00_scope.md R12). -/
theorem rxDepth_ge_frame (c : Config) {d : Nat} (h : c.rxDepth = some d) : 11 ≤ d := by
  have hwf := c.wellFormed
  simp only [RawConfig.wf, Bool.and_eq_true] at hwf
  obtain ⟨_, hdepth⟩ := hwf
  simpa [RawConfig.rxDepthOk, h] using hdepth

/-- While at most eleven bytes are pending in all, every host byte finds room. -/
theorem run_hostTurns_of_room (bytes : List Byte) {rest : List Turn} {s : State}
    (hturns : s.turns = bytes.map Turn.host ++ rest) (hfits : s.rx.length + bytes.length ≤ 11) :
    run bytes.length s = .next { s with turns := rest, rx := s.rx ++ bytes } := by
  induction bytes generalizing s with
  | nil => rw [List.append_nil, ← show s.turns = rest from hturns]; rfl
  | cons b bytes ih =>
    rw [List.length_cons] at hfits
    have hroom : fifoHasRoom s.cfg.rxDepth s.rx.length = true := by
      cases hd : s.cfg.rxDepth with
      | none => rfl
      | some d =>
        have hdepth := rxDepth_ge_frame s.cfg hd
        rw [fifoHasRoom_bounded, decide_eq_true_iff]
        omega
    have hstep : step s = .next { s with turns := bytes.map Turn.host ++ rest, rx := s.rx ++ [b] } := by
      rw [step_of_hostTurn hturns]
      exact congrArg _ (hostSend_of_room b hroom)
    rw [List.length_cons, run_succ _ hstep,
      ih (s := { s with turns := bytes.map Turn.host ++ rest, rx := s.rx ++ [b] }) rfl
        (by simp only [List.length_append, List.length_singleton]; omega)]
    simp

/-- A part of a frame that arrives in `IDLE` before a decode step is read whole and dropped (R90 (a), R203). -/
theorem run_part (part : List Byte) {rest : List Turn} {s : State} (hphase : s.phase = .idle) (hrx : s.rx = [])
    (hpart : part ≠ []) (hlen : part.length < 11) (hturns : s.turns = part.map Turn.host ++ .block :: rest) :
    run (part.length + 1) s = .next (raise .frameShort (readFrame { s with turns := rest, rx := part })) := by
  have hsent := run_hostTurns_of_room part hturns (by rw [hrx, List.length_nil]; omega)
  rw [hrx, List.nil_append] at hsent
  have hturn : BlockTurn { s with turns := .block :: rest, rx := part } { s with turns := rest, rx := part } :=
    .inr ⟨rest, rfl, rfl⟩
  have hshort : RejectedAs s.cfg (part.take 11) .frameShort :=
    .frame .short (decodeFrame_of_short (by rw [List.length_take]; omega))
  rw [run_add 1 hsent, run_succ 0 (step_of_rejected hturn hphase hpart hshort), run_zero]

/-- Settles O26: each part is read and dropped (`run_part`), and the first leaves the second's premises. -/
theorem splitFrameIsRejectedTwice : Obligations.SplitFrameIsRejectedTwice := by
  intro s first second hphase hrx hfirst hsecond hlen hturns
  have hpos1 : 0 < first.length := List.length_pos_iff.mpr hfirst
  have hpos2 : 0 < second.length := List.length_pos_iff.mpr hsecond
  have hrun1 := run_part first hphase hrx hfirst (by omega) hturns
  have hrun2 := run_part second (rest := []) (s := raise .frameShort
      (readFrame { s with turns := second.map Turn.host ++ [.block], rx := first }))
    (by simp) (by simp) hsecond (by omega) (by simp)
  have hrun := (run_add _ hrun1).trans hrun2
  rw [show first.length + 1 + (second.length + 1) = 13 by omega] at hrun
  refine ⟨_, _, hrun1, hrun, ⟨by simp, by simp, by simp, by simp, ?_, by simp, by simp⟩,
    ⟨by simp, by simp, by simp, by simp, ?_, by simp, by simp⟩⟩
  · rw [raise_fcount, readFrame_fcount]
    exact Nat.min_eq_left (show first.length ≤ 11 by omega)
  · rw [raise_fcount, readFrame_fcount]
    exact Nat.min_eq_left (show second.length ≤ 11 by omega)

/-! ## DRONE_OFF twice -/

/-- The buffer of a whole frame is the frame, and no free value is in it (10_state.md R38). -/
theorem frameBuffer_of_whole {bytes : List Byte} (h : bytes.length = 11) (n m : Nat) :
    frameBuffer bytes n = frameBuffer bytes m := by
  have hentry (j : Fin 11) : frameEntry bytes n j.val = frameEntry bytes m j.val := by
    simp [frameEntry, List.getElem?_eq_getElem (show j.val < bytes.length by omega)]
  simp only [frameBuffer, hentry]

/-- The state after DRONE_OFF was decoded from the FIFO and all pixels were cleared (R302). -/
def droneOffDone (s : State) : State := allOffStep (accept .allOff (latchKind .droneOff (readFrame s)))

/-- DRONE_OFF is decoded in one step and cleared in the next. -/
theorem run_droneOff {s : State} (hphase : s.phase = .idle) (hturns : s.turns = []) (hlen : s.rx.length = 11)
    (hdec : decodeFrame s.rx = .ok .droneOff) : run 2 s = .next (droneOffDone s) := by
  have hpending : s.rx ≠ [] := List.ne_nil_of_length_pos (by omega)
  have hread : decodeFrame (s.rx.take 11) = .ok .droneOff := by rwa [List.take_of_length_le hlen.le]
  have hdecode : step s = .next (accept .allOff (latchKind .droneOff (readFrame s))) :=
    step_of_decoded (.inl ⟨hturns, rfl⟩) hphase hpending hread
  have hclear : step (accept .allOff (latchKind .droneOff (readFrame s))) = .next (droneOffDone s) :=
    step_of_blockTurn_done (.inl ⟨by simp [hturns], rfl⟩) (fetchBlock_allOff rfl)
  rw [run_succ _ hdecode, run_succ _ hclear, run_zero]

/-- Settles O31: both frames run as `run_droneOff` says, and the second writes again what the first wrote; the frame buffer
holds no free value (`frameBuffer_of_whole`). -/
theorem droneOffTwiceIsIdempotent : Obligations.DroneOffTwiceIsIdempotent := by
  intro s f hphase hturns hlen hdec
  refine ⟨droneOffDone { s with rx := f }, droneOffDone { droneOffDone { s with rx := f } with rx := f },
    uniformPixels Color.off, fun i => uniformPixels_getElem _ _ i.isLt, run_droneOff hphase hturns hlen hdec,
    run_droneOff rfl ?_ hlen hdec, ?_, ?_, rfl, rfl, ?_, ?_⟩
  · simp [droneOffDone, allOffStep, hturns]
  · simp [droneOffDone, allOffStep, ackByte]
  · simp [droneOffDone, allOffStep, ackByte]
  · simp [droneOffDone, allOffStep]
  · have hbuffer (n : Nat) : frameBuffer (f.take (min f.length 11)) n = frameBuffer (f.take (min f.length 11)) 0 :=
      frameBuffer_of_whole (by simp [hlen]) n 0
    simp [droneOffDone, allOffStep, readFrame_eq, accept, latchKind, txWrite, commit, clearPixels, hbuffer]

end Sys2Proof.Machine
end

section
/-! PROOFS. The brightness curves are monotone (spec/42_curve_generator.md R408). -/

namespace Sys2Proof.Machine

open Sys2Proof

/-! ## Each formula in its step number -/

theorem linearChannel_mono (n a : Nat) {p q : Nat} (h : p ≤ q) : linearChannel n p a ≤ linearChannel n q a :=
  Nat.div_le_div_right (Nat.mul_le_mul_left a h)

theorem quadraticChannel_mono (n a : Nat) {p q : Nat} (h : p ≤ q) : quadraticChannel n p a ≤ quadraticChannel n q a := by
  rw [quadraticChannel_eq, quadraticChannel_eq]
  exact Nat.div_le_div_right (Nat.mul_le_mul_left a (Nat.pow_le_pow_left h 2))

/-- The root at step p fits under the larger power at step q, whose root is the largest that does. -/
theorem exponentialChannel_mono {n : Nat} (a : Nat) {p q : Nat} (hn : 0 < n) (hq : q ≤ n) (h : p ≤ q) :
    exponentialChannel n p a ≤ exponentialChannel n q a := by
  rcases Nat.eq_zero_or_pos a with rfl | ha
  · simp
  · obtain ⟨_, _, hfits, _⟩ := exponentialChannel_spec hn (h.trans hq) ha
    obtain ⟨_, _, _, hlargest⟩ := exponentialChannel_spec hn hq ha
    have hpow : exponentialChannel n p a ^ n < (exponentialChannel n q a + 1) ^ n :=
      calc exponentialChannel n p a ^ n ≤ a ^ p := hfits
        _ ≤ a ^ q := Nat.pow_le_pow_right ha h
        _ < (exponentialChannel n q a + 1) ^ n := hlargest
    exact Nat.le_of_lt_succ (lt_of_pow_lt_pow_left' n hpow)

/-- The truncated sum rises with the step number when the second channel is the larger. -/
theorem minMaxChannel_mono {n p q m mx : Nat} (hn : 0 < n) (hq : q ≤ n) (h : p ≤ q) (hrise : m ≤ mx) :
    minMaxChannel n p m mx ≤ minMaxChannel n q m mx := by
  have hpq : (p : Int) ^ 2 ≤ (q : Int) ^ 2 := by gcongr
  have hdiff : (0 : Int) ≤ (mx : Int) - m := by omega
  rw [← Int.ofNat_le, minMaxChannel_toInt hn (h.trans hq), minMaxChannel_toInt hn hq]
  exact Int.ediv_le_ediv (by positivity) (Int.add_le_add_left (Int.mul_le_mul_of_nonneg_left hpq hdiff) _)

/-- It falls when the second channel is the smaller. -/
theorem minMaxChannel_anti {n p q m mx : Nat} (hn : 0 < n) (hq : q ≤ n) (h : p ≤ q) (hfall : mx ≤ m) :
    minMaxChannel n q m mx ≤ minMaxChannel n p m mx := by
  have hpq : (p : Int) ^ 2 ≤ (q : Int) ^ 2 := by gcongr
  have hdiff : (mx : Int) - m ≤ 0 := by omega
  rw [← Int.ofNat_le, minMaxChannel_toInt hn (h.trans hq), minMaxChannel_toInt hn hq]
  exact Int.ediv_le_ediv (by positivity) (Int.add_le_add_left (mul_le_mul_of_nonpos_left hpq hdiff) _)

/-! ## Whole colors -/

/-- Every channel of `x` is at most that of `y`. -/
def ChannelsLe (x y : Color) : Prop := x.r.toNat ≤ y.r.toNat ∧ x.g.toNat ≤ y.g.toNat ∧ x.b.toNat ≤ y.b.toNat

/-- An entry of a table is the element of its step number. -/
theorem tableOf_getElem?_eq_some {n i : Nat} {element : Nat → Color} {x : Color}
    (h : (tableOf n element)[i]? = some x) : i < n ∧ x = element (i + 1) := by
  obtain ⟨hi, hx⟩ := List.getElem?_eq_some_iff.mp h
  rw [tableOf_getElem] at hx
  exact ⟨by simpa using hi, hx.symm⟩

theorem lanes_le_of_le {f g : Nat → Nat} {a : Color} (hfg : ∀ x, f x ≤ g x) (hg : ∀ x, g x ≤ x) :
    ChannelsLe (lanes f a) (lanes g a) := by
  have hfa := @toNat_lane f (fun x => (hfg x).trans (hg x)) a
  have hga := @toNat_lane g hg a
  refine ⟨?_, ?_, ?_⟩
  · rw [hfa (.inl rfl), hga (.inl rfl)]; exact hfg _
  · rw [hfa (.inr (.inl rfl)), hga (.inr (.inl rfl))]; exact hfg _
  · rw [hfa (.inr (.inr rfl)), hga (.inr (.inr rfl))]; exact hfg _

theorem lanes_le_self {f : Nat → Nat} (hf : ∀ x, f x ≤ x) (a : Color) : ChannelsLe (lanes f a) a := by
  have hfa := @toNat_lane f hf a
  refine ⟨?_, ?_, ?_⟩
  · rw [hfa (.inl rfl)]; exact hf _
  · rw [hfa (.inr (.inl rfl))]; exact hf _
  · rw [hfa (.inr (.inr rfl))]; exact hf _

/-- A table whose formula rises with the step number and stays within its channel rises and stays within its seed. -/
theorem tableOf_lanes_mono {n : Nat} {f : Nat → Nat → Nat} (hle : ∀ p, p ≤ n → ∀ x, f p x ≤ x)
    (hmono : ∀ p q, p ≤ q → q ≤ n → ∀ x, f p x ≤ f q x) {a x y : Color} {i j : Nat} (hij : i ≤ j)
    (hx : (tableOf n fun p => lanes (f p) a)[i]? = some x) (hy : (tableOf n fun p => lanes (f p) a)[j]? = some y) :
    ChannelsLe x y ∧ ChannelsLe y a := by
  obtain ⟨_, rfl⟩ := tableOf_getElem?_eq_some hx
  obtain ⟨hj, rfl⟩ := tableOf_getElem?_eq_some hy
  exact ⟨lanes_le_of_le (hmono _ _ (by omega) (by omega)) (hle _ (by omega)), lanes_le_self (hle _ (by omega)) a⟩

/-- An entry of the table between two colors moves towards the second on each channel. -/
theorem minMaxTable_moves {a b x y : Color} {n i j : Nat} (hij : i ≤ j) (hx : (minMaxTable a b n)[i]? = some x)
    (hy : (minMaxTable a b n)[j]? = some y) {m mx outx outy : BitVec 8}
    (hlane : (m, mx, outx, outy) = (a.r, b.r, x.r, y.r) ∨ (m, mx, outx, outy) = (a.g, b.g, x.g, y.g)
      ∨ (m, mx, outx, outy) = (a.b, b.b, x.b, y.b)) :
    (m.toNat ≤ mx.toNat → outx.toNat ≤ outy.toNat) ∧ (mx.toNat ≤ m.toNat → outy.toNat ≤ outx.toNat) := by
  obtain ⟨hi, rfl⟩ := tableOf_getElem?_eq_some hx
  obtain ⟨hj, rfl⟩ := tableOf_getElem?_eq_some hy
  have hn : 0 < n := by omega
  have hvalue {p : Nat} (hp : p ≤ n) {m mx out : BitVec 8} :=
    @toNat_lane2 (minMaxChannel n p) (fun m mx => (minMaxChannel_between hn hp m mx).2) a b m mx out
  have houtx : outx.toNat = minMaxChannel n (i + 1) m.toNat mx.toNat :=
    hvalue (by omega) (by rcases hlane with h | h | h <;> cases h <;> simp)
  have houty : outy.toNat = minMaxChannel n (j + 1) m.toNat mx.toNat :=
    hvalue (by omega) (by rcases hlane with h | h | h <;> cases h <;> simp)
  rw [houtx, houty]
  exact ⟨minMaxChannel_mono hn (by omega) (by omega), minMaxChannel_anti hn (by omega) (by omega)⟩

/-- Settles O19: each of the three curves from one color is a table of a rising formula (`tableOf_lanes_mono`), and the
curve between two colors moves on each channel (`minMaxTable_moves`). -/
theorem curvesAreMonotone : Obligations.CurvesAreMonotone := by
  intro a b n i j hij hj
  have hn : 0 < n := by omega
  refine ⟨fun t ht x y hx hy => ?_, fun x y hx hy => ?_⟩
  · have hcurve : ChannelsLe x y ∧ ChannelsLe y a := by
      simp only [List.mem_cons, List.not_mem_nil, or_false] at ht
      rcases ht with rfl | rfl | rfl
      · exact tableOf_lanes_mono (fun _ => linearChannel_le) (fun _ _ h _ x => linearChannel_mono n x h) hij hx hy
      · exact tableOf_lanes_mono (fun _ => quadraticChannel_le) (fun _ _ h _ x => quadraticChannel_mono n x h) hij hx hy
      · exact tableOf_lanes_mono (fun _ hp => exponentialChannel_le hn hp)
          (fun _ _ h hq x => exponentialChannel_mono x hn hq h) hij hx hy
    obtain ⟨⟨hr, hg, hb⟩, hra, hga, hba⟩ := hcurve
    exact ⟨⟨hr, hra⟩, ⟨hg, hga⟩, ⟨hb, hba⟩⟩
  · obtain ⟨hr, hr'⟩ := minMaxTable_moves hij hx hy (.inl rfl)
    obtain ⟨hg, hg'⟩ := minMaxTable_moves hij hx hy (.inr (.inl rfl))
    obtain ⟨hb, hb'⟩ := minMaxTable_moves hij hx hy (.inr (.inr rfl))
    exact ⟨hr, hr', hg, hg', hb, hb'⟩

end Sys2Proof.Machine
end

section
/-! PROOFS. The configuration's check is the partition of the LEDs into zones, and so a flash lights as many LEDs as its
counts say (spec/00_scope.md R12, 20_memory.md R97, 41_pattern_engine.md R328). -/

namespace Sys2Proof.Machine

open Sys2Proof

/-! ## The clauses of the check -/

theorem quadsDistinct_iff (c : RawConfig) :
    c.quadsDistinct = true ↔ ∀ q ∈ c.topology.quads, [q.p0, q.p1, q.p2, q.p3].Nodup := by
  simp only [RawConfig.quadsDistinct, List.all_eq_true, decide_eq_true_iff]
  rfl

/-- A list of numbers below `n` that counts each of them once lists exactly those numbers, each once. -/
theorem lt_and_count_eq_one_iff {l : List Nat} {n : Nat} :
    ((∀ i ∈ l, i < n) ∧ ∀ i < n, l.count i = 1) ↔ l.Nodup ∧ ∀ i, i ∈ l ↔ i < n := by
  constructor
  · rintro ⟨hlt, hcount⟩
    refine ⟨List.nodup_iff_count_le_one.mpr fun i => ?_, fun i => ⟨hlt i, fun hi => ?_⟩⟩
    · by_cases hi : i ∈ l
      · exact (hcount i (hlt i hi)).le
      · simp [List.count_eq_zero_of_not_mem hi]
    · exact List.count_pos_iff.mp (by rw [hcount i hi]; exact Nat.one_pos)
  · rintro ⟨hnodup, hmem⟩
    exact ⟨fun i => (hmem i).mp, fun i hi => List.count_eq_one_of_mem hnodup ((hmem i).mpr hi)⟩

theorem sidePartition_iff (c : RawConfig) :
    c.sidePartition = true ↔ c.topology.sideIndices.Nodup ∧ ∀ i, i ∈ c.topology.sideIndices ↔ i < 80 := by
  rw [← lt_and_count_eq_one_iff]
  simp only [RawConfig.sidePartition, Bool.and_eq_true, List.all_eq_true, decide_eq_true_iff, List.mem_range, beq_iff_eq]

/-- The LED indices of the two top quadruples. -/
def topIndices (b0 b1 : Fin 85) : List Nat := ((Quad.ofBase b0).toList ++ (Quad.ofBase b1).toList).map Fin.val

theorem mem_topIndices_iff {b0 b1 : Fin 85} {i : Nat} :
    i ∈ topIndices b0 b1 ↔ (b0.val ≤ i ∧ i < b0.val + 4) ∨ (b1.val ≤ i ∧ i < b1.val + 4) := by
  simp only [topIndices, Quad.toList, Quad.ofBase, List.map_append, List.map_cons, List.map_nil, List.mem_append,
    List.mem_cons, List.not_mem_nil, or_false]
  omega

theorem topCovers_eq (c : RawConfig) :
    c.topCovers = ((topIndices c.topBase0 c.topBase1).all (fun i => decide (80 ≤ i))
      && (List.range 8).all fun i => (topIndices c.topBase0 c.topBase1).count (80 + i) == 1) := rfl

/-- Two quadruples that cover 80 to 87 from there on start at 80 and at 84. -/
theorem topBases_of_cover {b0 b1 : Fin 85}
    (hcover : ∀ i, 80 ≤ i → i < 88 → (b0.val ≤ i ∧ i < b0.val + 4) ∨ (b1.val ≤ i ∧ i < b1.val + 4))
    (h0 : 80 ≤ b0.val) (h1 : 80 ≤ b1.val) : (b0 = 80 ∧ b1 = 84) ∨ (b0 = 84 ∧ b1 = 80) := by
  have hfirst := hcover 80 (by omega) (by omega)
  have hlast := hcover 87 (by omega) (by omega)
  simp only [Fin.ext_iff]
  change (b0.val = 80 ∧ b1.val = 84) ∨ (b0.val = 84 ∧ b1.val = 80)
  omega

theorem topCovers_iff (c : RawConfig) :
    c.topCovers = true ↔
      (∀ i, 80 ≤ i → i < 88 →
        (c.topBase0.val ≤ i ∧ i < c.topBase0.val + 4) ∨ (c.topBase1.val ≤ i ∧ i < c.topBase1.val + 4))
      ∧ 80 ≤ c.topBase0.val ∧ 80 ≤ c.topBase1.val := by
  rw [topCovers_eq]
  generalize c.topBase0 = b0
  generalize c.topBase1 = b1
  constructor
  · intro h
    simp only [Bool.and_eq_true, List.all_eq_true, decide_eq_true_iff, List.mem_range, beq_iff_eq] at h
    obtain ⟨hge, hcount⟩ := h
    refine ⟨fun i hlo hhi => mem_topIndices_iff.mp ?_, hge _ (mem_topIndices_iff.mpr (by omega)),
      hge _ (mem_topIndices_iff.mpr (by omega))⟩
    have hone := hcount (i - 80) (by omega)
    rw [Nat.add_sub_cancel' hlo] at hone
    exact List.count_pos_iff.mp (by omega)
  · rintro ⟨hcover, h0, h1⟩
    rcases topBases_of_cover hcover h0 h1 with ⟨rfl, rfl⟩ | ⟨rfl, rfl⟩ <;> decide

theorem rxDepthOk_iff (c : RawConfig) : c.rxDepthOk = true ↔ ∀ d, c.rxDepth = some d → 11 ≤ d := by
  cases h : c.rxDepth <;> simp [RawConfig.rxDepthOk, h]

theorem noteZeroRed_iff (c : RawConfig) : c.noteZeroRed = true ↔ c.noteColor[0] = ⟨255, 0, 0⟩ := decide_eq_true_iff

/-- Settles O46: each clause of the check is one of the statement's. -/
theorem configurationCheckIsThePartition : Obligations.ConfigurationCheckIsThePartition := by
  intro c
  simp only [RawConfig.wf, Bool.and_eq_true, quadsDistinct_iff, sidePartition_iff, topCovers_iff, noteZeroRed_iff,
    rxDepthOk_iff, and_assoc]

/-! ## The LEDs of a flash do not overlap -/

/-- The LEDs of all non-top subgroups, in zone order. -/
def sideLedIndices (t : Topology) : List LedIndex := t.quads.flatMap Quad.toList

theorem map_val_sideLedIndices (t : Topology) : (sideLedIndices t).map Fin.val = t.sideIndices := List.map_flatMap

theorem nodup_sideLedIndices (c : Config) : (sideLedIndices c.topology).Nodup := by
  obtain ⟨_, hnodup, _⟩ := (configurationCheckIsThePartition c.toRawConfig).mp c.wellFormed
  rw [← map_val_sideLedIndices] at hnodup
  exact hnodup.of_map

theorem lt_of_mem_sideLedIndices {c : Config} {i : LedIndex} (h : i ∈ sideLedIndices c.topology) : i.val < 80 := by
  obtain ⟨_, _, hmem, _⟩ := (configurationCheckIsThePartition c.toRawConfig).mp c.wellFormed
  refine (hmem i.val).mp ?_
  rw [← map_val_sideLedIndices]
  exact List.mem_map_of_mem h

theorem topBase_ge (c : Config) (o : Nat) : 80 ≤ (topBase c o).val := by
  obtain ⟨_, _, _, _, h0, h1, _⟩ := (configurationCheckIsThePartition c.toRawConfig).mp c.wellFormed
  unfold topBase
  split
  · exact h0
  · exact h1

/-- The first LEDs of a subgroup are among those of its zone. -/
theorem firstLeds_sublist {n : Nat} {q : Quad} {quads : List Quad} (h : q ∈ quads) :
    (firstLeds n q).Sublist (quads.flatMap Quad.toList) :=
  (List.take_sublist _ _).trans (List.sublist_flatten_of_mem (List.mem_map_of_mem h))

/-- The LEDs chosen in the six non-top zones are listed in zone order, so no LED is chosen twice. -/
theorem sideLeds_sublist (t : Topology) (p : PrngState) :
    (sideLeds t p .front 0 ++ sideLeds t p .back 2 ++ sideLeds t p .leftLeft 4 ++ sideLeds t p .leftRight 6
      ++ sideLeds t p .rightLeft 8 ++ sideLeds t p .rightRight 10).Sublist (sideLedIndices t) := by
  have hzone {n : Nat} (v : Vector Quad n) (m : Nat) (j : Fin n) :
      (firstLeds m (v.get j)).Sublist (v.toList.flatMap Quad.toList) :=
    firstLeds_sublist (by simp [Vector.get])
  simp only [sideLedIndices, Topology.quads, List.flatMap_append]
  exact (((((hzone _ _ _).append (hzone _ _ _)).append (hzone _ _ _)).append (hzone _ _ _)).append
    (hzone _ _ _)).append (hzone _ _ _)

theorem nodup_ofBase (b : Fin 85) : (Quad.ofBase b).toList.Nodup := by
  simp [Quad.ofBase, Quad.toList]

theorem nodup_topLeds (c : Config) (p : PrngState) (j : Nat) : (topLeds c p j).Nodup := by
  unfold topLeds
  split
  · exact (nodup_ofBase _).sublist (List.take_sublist _ _)
  · exact List.nodup_nil

/-- The zones never overlap, so a flash chooses no LED twice (20_memory.md R97). -/
theorem nodup_selectFlash (c : Config) (p : PrngState) : (selectFlash prngDraw c p).1.Nodup := by
  have hsides := sideLeds_sublist c.topology p
  rw [selectFlash_eq]
  refine ((nodup_sideLedIndices c).sublist hsides).append (nodup_topLeds c p 12) fun i hside htop => ?_
  have hlt := lt_of_mem_sideLedIndices (hsides.subset hside)
  obtain ⟨_, hge, _⟩ := mem_topLeds_iff.mp htop
  have hbase := topBase_ge c (rawDraw p (12 + 1) % 2)
  omega

/-! ## The number of LEDs of a flash -/

/-- A composed frame holds its color as often as LEDs were chosen. -/
theorem count_composeFlash {color : Color} {leds : List LedIndex} (hcolor : color ≠ Color.off) (hleds : leds.Nodup) :
    (composeFlash color leds).toList.count color = leds.length := by
  have hlist : (composeFlash color leds).toList
      = (List.finRange 88).map fun i : LedIndex => (composeFlash color leds)[i.val] := by
    apply List.ext_getElem <;> simp
  have hlit (i : LedIndex) : (composeFlash color leds)[i.val] = color ↔ i ∈ leds := by
    rw [composeFlash_getElem]
    simp [hcolor.symm]
  have hperm : ((List.finRange 88).filter fun i => decide (i ∈ leds)).Perm leds :=
    (List.perm_ext_iff_of_nodup ((List.nodup_finRange 88).filter _) hleds).mpr (by simp)
  rw [hlist, List.count_eq_countP, List.countP_map, List.countP_eq_length_filter, ← hperm.length_eq]
  congr 2
  funext i
  rw [Function.comp_apply, beq_eq_decide]
  exact decide_eq_decide.mpr (hlit i)

theorem length_firstLeds_chooseCount (raw : Nat) (q : Quad) : (firstLeds (chooseCount raw) q).length = raw % 4 + 1 := by
  simp only [firstLeds, chooseCount, List.length_take, Quad.toList, List.length_cons, List.length_nil]
  omega

theorem length_sideLeds (t : Topology) (p : PrngState) (z : SideZone) (j : Nat) :
    (sideLeds t p z j).length = rawDraw p (j + 1) % 4 + 1 := length_firstLeds_chooseCount _ _

theorem length_topLeds (c : Config) (p : PrngState) (j : Nat) :
    (topLeds c p j).length = if rawDraw p j % 2 = 1 then rawDraw p (j + 2) % 4 + 1 else 0 := by
  unfold topLeds
  split
  · exact length_firstLeds_chooseCount _ _
  · rfl

theorem sum_map_range_six (f : Nat → Nat) :
    ((List.range 6).map f).sum = f 0 + f 1 + f 2 + f 3 + f 4 + f 5 := by
  simp [List.range_succ, Nat.add_assoc]

theorem length_selectFlash (c : Config) (p : PrngState) :
    (selectFlash prngDraw c p).1.length = ((List.range 6).map fun z => rawDraw p (2 * z + 1) % 4 + 1).sum
      + (if rawDraw p 12 % 2 = 1 then rawDraw p 14 % 4 + 1 else 0) := by
  rw [sum_map_range_six]
  simp only [selectFlash_eq, List.length_append, length_sideLeds, length_topLeds, Nat.reduceMul, Nat.reduceAdd]

/-- Settles O33: the composed frame holds the color once per chosen LED (`count_composeFlash`, `nodup_selectFlash`); six
counts of 1 to 4, and at most one more, make 6 to 28. -/
theorem flashLightsTheSumOfItsCounts : Obligations.FlashLightsTheSumOfItsCounts := by
  intro s s0 t hturn hphase hcolor hstep
  rw [step_of_blockTurn_done hturn (fetchBlock_flashShow hphase), flashShowStep_eq] at hstep
  cases hstep
  have hcount := count_composeFlash hcolor (nodup_selectFlash s0.cfg s0.prng)
  rw [length_selectFlash] at hcount
  refine ⟨hcount, ?_⟩
  rw [hcount, sum_map_range_six]
  split <;> omega

end Sys2Proof.Machine
end

section
/-! PROOFS. A whole pass of the drone without input, and the end of a pass with input pending
(spec/41_pattern_engine.md R341 to R347). -/

namespace Sys2Proof.Machine

open Sys2Proof

/-! ## One drone step: DRONE_SHOW, then DRONE_WAIT -/

/-- With an empty schedule the turn is the block's, and DRONE_SHOW shows its step. -/
theorem step_of_droneShow {s : State} (hphase : s.phase = .droneShow) (hturns : s.turns = []) :
    step s = .next (droneShowStep s) := step_of_blockTurn_done (.inl ⟨hturns, rfl⟩) (fetchBlock_droneShow hphase)

/-- With an empty schedule the turn is the block's, and DRONE_WAIT holds, polls and advances. -/
theorem step_of_droneWait {s : State} (hphase : s.phase = .droneWait) (hturns : s.turns = []) :
    step s = .next (droneWaitStep s) := step_of_blockTurn_done (.inl ⟨hturns, rfl⟩) (fetchBlock_droneWait hphase)

/-! ## A pass without input (R345) -/

/-- The drone is about to show a step, `stop` is clear, no byte is pending and nobody else moves. -/
structure PassPoint (s : State) : Prop where
  phase : s.phase = .droneShow
  turns : s.turns = []
  rx : s.rx = []
  stop : s.stop = false

/-- The events of drone step `k` with its hold (R341, R342). -/
def droneStepEvents (t : DroneTable) (us : Nat) (k : Fin 100) : List Event :=
  [.commit (uniformPixels (droneColorAt t k)), .hold us]

/-- The state after drone step `s.k` of a pass without input, which leads to `d` and `k`. -/
def afterDroneStep (s : State) (d : Dir) (k : Fin 100) : State :=
  { s with
    pix := uniformPixels (droneColorAt s.table s.k)
    tUs := s.tUs + droneStepUs s.cfg s.dir
    trace := s.trace ++ droneStepEvents s.table (droneStepUs s.cfg s.dir) s.k
    dir := d
    k := k }

/-- One drone step of a pass without input: its two events, its hold on the clock, and the advance. -/
theorem run_droneStep {s : State} (h : PassPoint s) {d : Dir} {k : Fin 100}
    (hnext : nextDroneStep s.dir s.k false = (d, k, .droneShow)) : run 2 s = .next (afterDroneStep s d k) := by
  obtain ⟨hphase, hturns, hrx, hstop⟩ := h
  have hwait : step (droneShowStep s) = .next (droneWaitStep (droneShowStep s)) := step_of_droneWait rfl hturns
  rw [run_succ _ (step_of_droneShow hphase hturns), run_succ _ hwait, run_zero, droneWaitStep_eq]
  simp [droneShowStep_eq, droneStepEvents, afterDroneStep, hrx, hstop, hnext, hphase]

theorem PassPoint.afterDroneStep {s : State} (h : PassPoint s) (d : Dir) (k : Fin 100) :
    PassPoint (afterDroneStep s d k) := ⟨h.phase, h.turns, h.rx, h.stop⟩

/-- The steps from `k` up begin with `k`. -/
theorem drop_finRange (k : Fin 100) :
    (List.finRange 100).drop k.val = k :: (List.finRange 100).drop (k.val + 1) := by
  rw [List.drop_eq_getElem_cons (by simp)]
  simp

/-- The steps from `k` down begin with `k`. -/
theorem reverse_take_finRange (k : Fin 100) :
    ((List.finRange 100).take (k.val + 1)).reverse = k :: ((List.finRange 100).take k.val).reverse := by
  rw [List.take_succ_eq_append_getElem (by simp)]
  simp

/-- From step `k` of the ascent, `m + 1` steps before its end: the rest of the ascent and the turn at 99. -/
theorem run_ascent (m : Nat) {s : State} (h : PassPoint s) (hdir : s.dir = .asc) (hk : s.k.val + (m + 1) = 100) :
    ∃ pix, run (2 * (m + 1)) s = .next { s with
      pix := pix
      tUs := s.tUs + (m + 1) * s.cfg.ascendStepUs
      trace := s.trace ++ ((List.finRange 100).drop s.k.val).flatMap (droneStepEvents s.table s.cfg.ascendStepUs)
      dir := .desc
      k := 99 } := by
  rw [drop_finRange]
  induction m generalizing s with
  | zero =>
    have hlast : s.k.val = 99 := by omega
    have hk99 : s.k = 99 := Fin.ext hlast
    have hnone : (List.finRange 100).drop 100 = [] := List.drop_eq_nil_of_le (by simp)
    have hrun := run_droneStep h (by rw [hdir]; exact nextDroneStep_turn false hlast)
    refine ⟨uniformPixels (droneColorAt s.table s.k), hrun.trans ?_⟩
    simp [afterDroneStep, hdir, hk99, hnone, droneStepUs]
  | succ m ih =>
    have hrun := run_droneStep h (by rw [hdir]; exact nextDroneStep_up false (by omega))
    obtain ⟨pix, hrest⟩ := ih (h.afterDroneStep .asc ⟨s.k.val + 1, by omega⟩) rfl
      (by change s.k.val + 1 + (m + 1) = 100; omega)
    refine ⟨pix, ?_⟩
    rw [show 2 * (m + 1 + 1) = 2 + 2 * (m + 1) by ring, run_add _ hrun, hrest, ← drop_finRange]
    have htime : s.tUs + s.cfg.ascendStepUs + (m + 1) * s.cfg.ascendStepUs
        = s.tUs + (m + 1 + 1) * s.cfg.ascendStepUs := by ring
    simp [afterDroneStep, hdir, droneStepUs, htime]

/-- From step `k` of the descent: the rest of the descent, and a new pass about to start. -/
theorem run_descent (k : Nat) {s : State} (h : PassPoint s) (hdir : s.dir = .desc) (hk : s.k.val = k) :
    ∃ pix, run (2 * (k + 1)) s = .next { s with
      pix := pix
      tUs := s.tUs + (k + 1) * s.cfg.descendStepUs
      trace := s.trace
        ++ ((List.finRange 100).take (s.k.val + 1)).reverse.flatMap (droneStepEvents s.table s.cfg.descendStepUs)
      dir := .asc
      k := 0 } := by
  rw [reverse_take_finRange]
  induction k generalizing s with
  | zero =>
    have hrun := run_droneStep h (by rw [hdir]; exact nextDroneStep_newPass hk)
    refine ⟨uniformPixels (droneColorAt s.table s.k), hrun.trans ?_⟩
    simp [afterDroneStep, hdir, hk, droneStepUs]
  | succ k ih =>
    have hrun := run_droneStep h (by rw [hdir]; exact nextDroneStep_down false (by omega))
    obtain ⟨pix, hrest⟩ := ih (h.afterDroneStep .desc ⟨s.k.val - 1, by omega⟩) rfl
      (by change s.k.val - 1 = k; omega)
    refine ⟨pix, ?_⟩
    rw [show 2 * (k + 1 + 1) = 2 + 2 * (k + 1) by ring, run_add _ hrun, hrest, ← reverse_take_finRange]
    have htime : s.tUs + s.cfg.descendStepUs + (k + 1) * s.cfg.descendStepUs
        = s.tUs + (k + 1 + 1) * s.cfg.descendStepUs := by ring
    simp [afterDroneStep, hdir, hk, droneStepUs, htime]

/-- Settles O39: the ascent from 0 (`run_ascent`) and then the descent from 99 (`run_descent`). -/
theorem dronePassStructure : Obligations.DronePassStructure := by
  intro s hphase hdir hk hstop hrx hturns
  obtain ⟨up, hup⟩ := run_ascent 99 ⟨hphase, hturns, hrx, hstop⟩ hdir (by rw [hk]; rfl)
  obtain ⟨down, hdown⟩ := run_descent 99 (s := { s with
      pix := up
      tUs := s.tUs + (99 + 1) * s.cfg.ascendStepUs
      trace := s.trace ++ ((List.finRange 100).drop s.k.val).flatMap (droneStepEvents s.table s.cfg.ascendStepUs)
      dir := .desc
      k := 99 }) ⟨hphase, hturns, hrx, hstop⟩ rfl rfl
  refine ⟨_, (run_add _ hup).trans hdown, ?_, rfl, ?_⟩
  · simp [← hdir, ← hk]
  · rw [hk]
    rfl

/-! ## The end of a pass with input pending (R343, R344, R347) -/

/-- After exactly `n` steps from `s` the drone has returned at the end of its descent, with the pending bytes `rx`
untouched; in no state before is it outside DRONE_SHOW and DRONE_WAIT. -/
structure EndsPass (rx : List Byte) (n : Nat) (s : State) : Prop where
  ends : ∃ t, run n s = .next t ∧ t.phase = .idle ∧ t.rx = rx ∧ t.dir = .desc ∧ t.k.val = 0 ∧ t.stop = true
  before : ∀ m, m < n → ∃ t, run m s = .next t ∧ (t.phase = .droneShow ∨ t.phase = .droneWait)

theorem EndsPass.of_step {rx : List Byte} {n : Nat} {s u : State} (hphase : s.phase = .droneShow ∨ s.phase = .droneWait)
    (hstep : step s = .next u) (h : EndsPass rx n u) : EndsPass rx (n + 1) s where
  ends := by rw [run_succ _ hstep]; exact h.ends
  before := fun m hm => by
    cases m with
    | zero => exact ⟨s, rfl, hphase⟩
    | succ m => rw [run_succ _ hstep]; exact h.before m (by omega)

/-- One drone step with input pending: the poll has set `stop`, and the pass goes on from where the step leads. -/
theorem EndsPass.of_droneStep {n : Nat} {s : State} (hphase : s.phase = .droneShow) (hturns : s.turns = [])
    (hpending : s.rx ≠ [])
    (h : ∀ t : State, t.turns = [] → t.rx = s.rx → t.stop = true →
      (t.dir, t.k, t.phase) = nextDroneStep s.dir s.k true → EndsPass s.rx n t) : EndsPass s.rx (n + 1 + 1) s := by
  have hwait : step (droneShowStep s) = .next (droneWaitStep (droneShowStep s)) := step_of_droneWait rfl hturns
  refine .of_step (.inl hphase) (step_of_droneShow hphase hturns) (.of_step (.inr rfl) hwait (h _ ?_ ?_ ?_ ?_))
  · simp [droneWaitStep_eq, droneShowStep_eq, hturns]
  · simp [droneWaitStep_eq, droneShowStep_eq]
  · simp [droneWaitStep_eq, droneShowStep_eq, List.length_pos_iff, hpending]
  · simp [droneWaitStep_eq, droneShowStep_eq, List.length_pos_iff, hpending]

/-- From step `k` of the descent the drone returns after `k + 1` drone steps. -/
theorem endsPass_of_desc (k : Nat) {s : State} (hphase : s.phase = .droneShow) (hturns : s.turns = [])
    (hpending : s.rx ≠ []) (hdir : s.dir = .desc) (hk : s.k.val = k) : EndsPass s.rx (2 * (k + 1)) s := by
  induction k generalizing s with
  | zero =>
    refine .of_droneStep hphase hturns hpending fun t _ hrx hstop hnext => ?_
    rw [hdir, nextDroneStep_return hk] at hnext
    simp only [Prod.mk.injEq] at hnext
    obtain ⟨hdir', hk', hphase'⟩ := hnext
    exact ⟨⟨t, rfl, hphase', hrx, hdir', by rw [hk', hk], hstop⟩, fun m hm => absurd hm (Nat.not_lt_zero m)⟩
  | succ k ih =>
    refine .of_droneStep hphase hturns hpending fun t hturns' hrx _ hnext => ?_
    rw [hdir, nextDroneStep_down true (by omega)] at hnext
    simp only [Prod.mk.injEq] at hnext
    obtain ⟨hdir', hk', hphase'⟩ := hnext
    rw [← hrx]
    exact ih hphase' hturns' (by rwa [hrx]) hdir' (by rw [hk']; change s.k.val - 1 = k; omega)

/-- From step `k` of the ascent, `m + 1` steps before its end, the drone goes up and turns, and then returns after the 100
drone steps of the descent. -/
theorem endsPass_of_asc (m : Nat) {s : State} (hphase : s.phase = .droneShow) (hturns : s.turns = [])
    (hpending : s.rx ≠ []) (hdir : s.dir = .asc) (hk : s.k.val + (m + 1) = 100) :
    EndsPass s.rx (200 + 2 * (m + 1)) s := by
  induction m generalizing s with
  | zero =>
    refine .of_droneStep (n := 200) hphase hturns hpending fun t hturns' hrx _ hnext => ?_
    rw [hdir, nextDroneStep_turn true (by omega)] at hnext
    simp only [Prod.mk.injEq] at hnext
    obtain ⟨hdir', hk', hphase'⟩ := hnext
    rw [← hrx]
    exact endsPass_of_desc 99 hphase' hturns' (by rwa [hrx]) hdir' (by rw [hk']; omega)
  | succ m ih =>
    refine .of_droneStep (n := 200 + 2 * (m + 1)) hphase hturns hpending fun t hturns' hrx _ hnext => ?_
    rw [hdir, nextDroneStep_up true (by omega)] at hnext
    simp only [Prod.mk.injEq] at hnext
    obtain ⟨hdir', hk', hphase'⟩ := hnext
    rw [← hrx]
    exact ih hphase' hturns' (by rwa [hrx]) hdir' (by rw [hk']; change s.k.val + 1 + (m + 1) = 100; omega)

/-- Settles O41: the rest of the pass, on the way up (`endsPass_of_asc`) or down (`endsPass_of_desc`). -/
theorem droneReturnsAtTheEndOfThePass : Obligations.DroneReturnsAtTheEndOfThePass := by
  intro s steps hphase hpending hturns hdesc hasc
  have hpass : EndsPass s.rx steps s := by
    have hk : s.k.val < 100 := s.k.isLt
    cases hdir : s.dir with
    | asc =>
      rw [hasc hdir, show 2 * (100 - s.k.val) + 200 = 200 + 2 * (99 - s.k.val + 1) by omega]
      exact endsPass_of_asc _ hphase hturns hpending hdir (by omega)
    | desc =>
      rw [hdesc hdir]
      exact endsPass_of_desc _ hphase hturns hpending hdir rfl
  exact ⟨hpass.ends, hpass.before⟩

end Sys2Proof.Machine
end
